-- ==== Sys2Proof/Word.lean ====
section
/-! DEFINITION. The bit-vector types of the CHIP-8 core (spec/00_scope.md R5, R7). -/

namespace Sys2Proof

/-- A byte: a general register, a timer, a memory cell, an immediate `nn` (R5, R9). -/
abbrev Byte := BitVec 8

/-- A 16-bit value: an instruction word, `pc`, `I`, a stack entry (R5, R7). -/
abbrev Word := BitVec 16

/-- A nibble of an instruction word: a family digit, a register number, a sprite height (R7, R61). -/
abbrev Nibble := BitVec 4

/-- The number of a general register, a 4-bit field of the instruction word (R11). -/
abbrev Reg := BitVec 4

/-- The 12-bit address operand `nnn` (R63). -/
abbrev Addr12 := BitVec 12

end Sys2Proof
end

