-- ==== Sys2Proof/Syntax.lean ====
section
/-! DEFINITION. The instructions: one constructor per row of spec/opcode_table.json (spec/30_encoding.md R66),
in the table's order. Every operand has exactly the width of its field (R63). -/

namespace Sys2Proof

/-- The 34 instructions of R66. `x` and `y` are register numbers, `nn` a byte, `nnn` a 12-bit address, `n` a
sprite height. -/
inductive Instr where
  /-- `CLS`, 00E0 (R131). -/
  | cls
  /-- `RET`, 00EE (R91). -/
  | ret
  /-- `JP nnn`, 1nnn (R92). -/
  | jp (nnn : Addr12)
  /-- `CALL nnn`, 2nnn (R93). -/
  | call (nnn : Addr12)
  /-- `SE Vx,nn`, 3xnn (R94). -/
  | seByte (x : Reg) (nn : Byte)
  /-- `SNE Vx,nn`, 4xnn (R95). -/
  | sneByte (x : Reg) (nn : Byte)
  /-- `SE Vx,Vy`, 5xy0 (R96). -/
  | seReg (x y : Reg)
  /-- `SNE Vx,Vy`, 9xy0 (R98). -/
  | sneReg (x y : Reg)
  /-- `LD Vx,nn`, 6xnn (R101). -/
  | ldByte (x : Reg) (nn : Byte)
  /-- `ADD Vx,nn`, 7xnn (R102). -/
  | addByte (x : Reg) (nn : Byte)
  /-- `LD Vx,Vy`, 8xy0 (R103). -/
  | ldReg (x y : Reg)
  /-- `OR Vx,Vy`, 8xy1 (R104). -/
  | orReg (x y : Reg)
  /-- `AND Vx,Vy`, 8xy2 (R105). -/
  | andReg (x y : Reg)
  /-- `XOR Vx,Vy`, 8xy3 (R106). -/
  | xorReg (x y : Reg)
  /-- `ADD Vx,Vy`, 8xy4 (R107). -/
  | addReg (x y : Reg)
  /-- `SUB Vx,Vy`, 8xy5 (R108). -/
  | subReg (x y : Reg)
  /-- `SHR Vx`, 8xy6; `y` is in the word and has no role (R69, R109). -/
  | shr (x y : Reg)
  /-- `SUBN Vx,Vy`, 8xy7 (R110). -/
  | subnReg (x y : Reg)
  /-- `SHL Vx`, 8xyE; `y` is in the word and has no role (R69, R111). -/
  | shl (x y : Reg)
  /-- `LD I,nnn`, Annn (R121). -/
  | ldI (nnn : Addr12)
  /-- `JP V0,nnn`, Bnnn (R97). -/
  | jpV0 (nnn : Addr12)
  /-- `RND Vx,nn`, Cxnn (R112). -/
  | rnd (x : Reg) (nn : Byte)
  /-- `DRW Vx,Vy,n`, Dxyn (R132). -/
  | drw (x y : Reg) (n : Nibble)
  /-- `SKP Vx`, Ex9E (R141). -/
  | skp (x : Reg)
  /-- `SKNP Vx`, ExA1 (R142). -/
  | sknp (x : Reg)
  /-- `LD Vx,DT`, Fx07 (R143). -/
  | ldVxDt (x : Reg)
  /-- `LD Vx,K`, Fx0A (R144). -/
  | ldVxK (x : Reg)
  /-- `LD DT,Vx`, Fx15 (R145). -/
  | ldDtVx (x : Reg)
  /-- `LD ST,Vx`, Fx18 (R146). -/
  | ldStVx (x : Reg)
  /-- `ADD I,Vx`, Fx1E (R122). -/
  | addI (x : Reg)
  /-- `LD F,Vx`, Fx29 (R123). -/
  | ldF (x : Reg)
  /-- `LD B,Vx`, Fx33 (R124). -/
  | ldB (x : Reg)
  /-- `LD [I],Vx`, Fx55 (R125). -/
  | storeRegs (x : Reg)
  /-- `LD Vx,[I]`, Fx65 (R126). -/
  | loadRegs (x : Reg)
deriving DecidableEq, Repr

end Sys2Proof
end

