-- ==== Sys2Proof/WellFormed.lean ====
section
/-! DEFINITION. Well-formedness of instructions.
The operands carry their widths in their types, so "operand extraction never yields an out-of-range index"
(spec/10_state.md R11, R25 (a)) holds of every term: `wellFormed` says the ranges of spec/30_encoding.md R63
out loud and `Instr.wellFormed_all` proves them. The one check a term can fail is `assembled`: the assembler
syntax of R71 has no place for the unused `y` of `SHR` and `SHL` and sets it to 0 (decision D25, log 18). -/

namespace Sys2Proof

/-- A register operand is one of `V0`..`VF` (R11). -/
def regInRange (x : Reg) : Bool := x.toNat < 16

/-- Every operand lies in the range of its field (R63). -/
def Instr.wellFormed : Instr → Bool
  | .cls => true
  | .ret => true
  | .jp nnn => nnn.toNat < 4096
  | .call nnn => nnn.toNat < 4096
  | .seByte x nn => regInRange x && nn.toNat < 256
  | .sneByte x nn => regInRange x && nn.toNat < 256
  | .seReg x y => regInRange x && regInRange y
  | .sneReg x y => regInRange x && regInRange y
  | .ldByte x nn => regInRange x && nn.toNat < 256
  | .addByte x nn => regInRange x && nn.toNat < 256
  | .ldReg x y => regInRange x && regInRange y
  | .orReg x y => regInRange x && regInRange y
  | .andReg x y => regInRange x && regInRange y
  | .xorReg x y => regInRange x && regInRange y
  | .addReg x y => regInRange x && regInRange y
  | .subReg x y => regInRange x && regInRange y
  | .shr x y => regInRange x && regInRange y
  | .subnReg x y => regInRange x && regInRange y
  | .shl x y => regInRange x && regInRange y
  | .ldI nnn => nnn.toNat < 4096
  | .jpV0 nnn => nnn.toNat < 4096
  | .rnd x nn => regInRange x && nn.toNat < 256
  | .drw x y n => regInRange x && regInRange y && n.toNat < 16
  | .skp x => regInRange x
  | .sknp x => regInRange x
  | .ldVxDt x => regInRange x
  | .ldVxK x => regInRange x
  | .ldDtVx x => regInRange x
  | .ldStVx x => regInRange x
  | .addI x => regInRange x
  | .ldF x => regInRange x
  | .ldB x => regInRange x
  | .storeRegs x => regInRange x
  | .loadRegs x => regInRange x

/-- The instruction can be written in the assembly syntax of R71: the unused field of a shift is 0 (D25). -/
def Instr.assembled : Instr → Bool
  | .shr _ y => y == 0
  | .shl _ y => y == 0
  | _ => true

/-- No term of `Instr` is ill-formed (R11, R25 (a)). -/
theorem Instr.wellFormed_all (i : Instr) : i.wellFormed = true := by
  cases i <;> simp [Instr.wellFormed, regInRange] <;> omega

end Sys2Proof
end

