-- ==== Sys2Proof/Decode.lean ====
section
/-! DEFINITION. The Decoder and the Dispatch Table (spec/30_encoding.md R60 to R72), then the encoder.
Every numeric opcode value is the spec's own, marked there `[from general knowledge, not in source]` (D1):
PRESUMED by the spec, unsafe (log 1). -/

namespace Sys2Proof

/-! ### The fields of a word (R61, R63) -/

/-- `d1 = op[15:12]`, the family. -/
def opFamily (op : Word) : Nibble := op.extractLsb' 12 4

/-- `x = op[11:8]`. -/
def opX (op : Word) : Reg := op.extractLsb' 8 4

/-- `y = op[7:4]`. -/
def opY (op : Word) : Reg := op.extractLsb' 4 4

/-- `n = op[3:0]`. -/
def opN (op : Word) : Nibble := op.extractLsb' 0 4

/-- `nn = op[7:0]`. -/
def opNN (op : Word) : Byte := op.extractLsb' 0 8

/-- `nnn = op[11:0]`. -/
def opNNN (op : Word) : Addr12 := op.extractLsb' 0 12

/-! ### Dispatch (R64 to R66) -/

/-- The dispatch mask of a family (R64). -/
def dispatchMask (d1 : Nibble) : Word :=
  match d1.toNat with
  | 0x0 => 0xFFFF
  | 0x5 | 0x8 | 0x9 => 0xF00F
  | 0xE | 0xF => 0xF0FF
  | _ => 0xF000

/-- The dispatch key `op and mask(d1)` (R64). -/
def dispatchKey (op : Word) : Word := op &&& dispatchMask (opFamily op)

/-- One row of the opcode map of R66: mnemonic (as spec/opcode_table.json spells it), mask, `match`, and the
instruction with the operands of the row's format taken from the word. -/
structure OpcodeRow where
  mnemonic : String
  mask : Word
  key : Word
  build : Word → Instr

/-- The rows of R66 under the exact mask and the control-flow rows, 1 to 8. -/
def opcodeRowsControl : List OpcodeRow := [
  ⟨"CLS", 0xFFFF, 0x00E0, fun _ => .cls⟩,
  ⟨"RET", 0xFFFF, 0x00EE, fun _ => .ret⟩,
  ⟨"JP_nnn", 0xF000, 0x1000, fun op => .jp (opNNN op)⟩,
  ⟨"CALL_nnn", 0xF000, 0x2000, fun op => .call (opNNN op)⟩,
  ⟨"SE_Vx_nn", 0xF000, 0x3000, fun op => .seByte (opX op) (opNN op)⟩,
  ⟨"SNE_Vx_nn", 0xF000, 0x4000, fun op => .sneByte (opX op) (opNN op)⟩,
  ⟨"SE_Vx_Vy", 0xF00F, 0x5000, fun op => .seReg (opX op) (opY op)⟩,
  ⟨"SNE_Vx_Vy", 0xF00F, 0x9000, fun op => .sneReg (opX op) (opY op)⟩]

/-- Rows 9 to 19 of R66: loads, arithmetic, logic, shifts. -/
def opcodeRowsAlu : List OpcodeRow := [
  ⟨"LD_Vx_nn", 0xF000, 0x6000, fun op => .ldByte (opX op) (opNN op)⟩,
  ⟨"ADD_Vx_nn", 0xF000, 0x7000, fun op => .addByte (opX op) (opNN op)⟩,
  ⟨"LD_Vx_Vy", 0xF00F, 0x8000, fun op => .ldReg (opX op) (opY op)⟩,
  ⟨"OR_Vx_Vy", 0xF00F, 0x8001, fun op => .orReg (opX op) (opY op)⟩,
  ⟨"AND_Vx_Vy", 0xF00F, 0x8002, fun op => .andReg (opX op) (opY op)⟩,
  ⟨"XOR_Vx_Vy", 0xF00F, 0x8003, fun op => .xorReg (opX op) (opY op)⟩,
  ⟨"ADD_Vx_Vy", 0xF00F, 0x8004, fun op => .addReg (opX op) (opY op)⟩,
  ⟨"SUB_Vx_Vy", 0xF00F, 0x8005, fun op => .subReg (opX op) (opY op)⟩,
  ⟨"SHR_Vx", 0xF00F, 0x8006, fun op => .shr (opX op) (opY op)⟩,
  ⟨"SUBN_Vx_Vy", 0xF00F, 0x8007, fun op => .subnReg (opX op) (opY op)⟩,
  ⟨"SHL_Vx", 0xF00F, 0x800E, fun op => .shl (opX op) (opY op)⟩]

/-- Rows 20 to 34 of R66. -/
def opcodeRowsRest : List OpcodeRow := [
  ⟨"LD_I_nnn", 0xF000, 0xA000, fun op => .ldI (opNNN op)⟩,
  ⟨"JP_V0_nnn", 0xF000, 0xB000, fun op => .jpV0 (opNNN op)⟩,
  ⟨"RND_Vx_nn", 0xF000, 0xC000, fun op => .rnd (opX op) (opNN op)⟩,
  ⟨"DRW_Vx_Vy_n", 0xF000, 0xD000, fun op => .drw (opX op) (opY op) (opN op)⟩,
  ⟨"SKP_Vx", 0xF0FF, 0xE09E, fun op => .skp (opX op)⟩,
  ⟨"SKNP_Vx", 0xF0FF, 0xE0A1, fun op => .sknp (opX op)⟩,
  ⟨"LD_Vx_DT", 0xF0FF, 0xF007, fun op => .ldVxDt (opX op)⟩,
  ⟨"LD_Vx_K", 0xF0FF, 0xF00A, fun op => .ldVxK (opX op)⟩,
  ⟨"LD_DT_Vx", 0xF0FF, 0xF015, fun op => .ldDtVx (opX op)⟩,
  ⟨"LD_ST_Vx", 0xF0FF, 0xF018, fun op => .ldStVx (opX op)⟩,
  ⟨"ADD_I_Vx", 0xF0FF, 0xF01E, fun op => .addI (opX op)⟩,
  ⟨"LD_F_Vx", 0xF0FF, 0xF029, fun op => .ldF (opX op)⟩,
  ⟨"LD_B_Vx", 0xF0FF, 0xF033, fun op => .ldB (opX op)⟩,
  ⟨"LD__I__Vx", 0xF0FF, 0xF055, fun op => .storeRegs (opX op)⟩,
  ⟨"LD_Vx__I", 0xF0FF, 0xF065, fun op => .loadRegs (opX op)⟩]

/-- The Dispatch Table, 34 rows in the order of R66. -/
def opcodeTable : List OpcodeRow := opcodeRowsControl ++ opcodeRowsAlu ++ opcodeRowsRest

/-- The row whose `match` equals the dispatch key (R64). -/
def dispatchRow (op : Word) : Option OpcodeRow := opcodeTable.find? (fun r => r.key == dispatchKey op)

/-- Decode one instruction word; `none` is an illegal word (R64, R68). -/
def decodeWord (op : Word) : Option Instr := (dispatchRow op).map (fun r => r.build op)

/-- Why bytes are no instruction. -/
inductive DecodeError where
  /-- The word has no row in the Dispatch Table (R68): a `Tick` raises `UnimplementedOpcode`. -/
  | unimplementedOpcode (op : Word)
  /-- Fewer than the 2 bytes of an instruction (R60). -/
  | truncated
deriving DecidableEq, Repr

/-- The word two bytes form: the byte at the lower address is `op[15:8]` (spec/20_memory.md R45). -/
def bigEndian (b0 b1 : Byte) : Word := b0 ++ b1

/-- Decode the first instruction of a list of bytes and return the bytes after it. -/
def decode : List Byte → Except DecodeError (Instr × List Byte)
  | b0 :: b1 :: rest =>
    match decodeWord (bigEndian b0 b1) with
    | some i => .ok (i, rest)
    | none => .error (.unimplementedOpcode (bigEndian b0 b1))
  | _ => .error .truncated

/-! ### Encoder -/

/-- The word of an instruction, written from the patterns of R66. -/
def encode : Instr → Word
  | .cls => 0x00E0#16
  | .ret => 0x00EE#16
  | .jp nnn => 0x1#4 ++ nnn
  | .call nnn => 0x2#4 ++ nnn
  | .seByte x nn => 0x3#4 ++ x ++ nn
  | .sneByte x nn => 0x4#4 ++ x ++ nn
  | .seReg x y => 0x5#4 ++ x ++ y ++ 0x0#4
  | .sneReg x y => 0x9#4 ++ x ++ y ++ 0x0#4
  | .ldByte x nn => 0x6#4 ++ x ++ nn
  | .addByte x nn => 0x7#4 ++ x ++ nn
  | .ldReg x y => 0x8#4 ++ x ++ y ++ 0x0#4
  | .orReg x y => 0x8#4 ++ x ++ y ++ 0x1#4
  | .andReg x y => 0x8#4 ++ x ++ y ++ 0x2#4
  | .xorReg x y => 0x8#4 ++ x ++ y ++ 0x3#4
  | .addReg x y => 0x8#4 ++ x ++ y ++ 0x4#4
  | .subReg x y => 0x8#4 ++ x ++ y ++ 0x5#4
  | .shr x y => 0x8#4 ++ x ++ y ++ 0x6#4
  | .subnReg x y => 0x8#4 ++ x ++ y ++ 0x7#4
  | .shl x y => 0x8#4 ++ x ++ y ++ 0xE#4
  | .ldI nnn => 0xA#4 ++ nnn
  | .jpV0 nnn => 0xB#4 ++ nnn
  | .rnd x nn => 0xC#4 ++ x ++ nn
  | .drw x y n => 0xD#4 ++ x ++ y ++ n
  | .skp x => 0xE#4 ++ x ++ 0x9E#8
  | .sknp x => 0xE#4 ++ x ++ 0xA1#8
  | .ldVxDt x => 0xF#4 ++ x ++ 0x07#8
  | .ldVxK x => 0xF#4 ++ x ++ 0x0A#8
  | .ldDtVx x => 0xF#4 ++ x ++ 0x15#8
  | .ldStVx x => 0xF#4 ++ x ++ 0x18#8
  | .addI x => 0xF#4 ++ x ++ 0x1E#8
  | .ldF x => 0xF#4 ++ x ++ 0x29#8
  | .ldB x => 0xF#4 ++ x ++ 0x33#8
  | .storeRegs x => 0xF#4 ++ x ++ 0x55#8
  | .loadRegs x => 0xF#4 ++ x ++ 0x65#8

/-- The two bytes of a word as memory holds them, the high byte first (R45). -/
def wordBytes (w : Word) : List Byte := [w.extractLsb' 8 8, w.extractLsb' 0 8]

/-- What the decoder reads from an instruction whose bits are `w`, bit 0 the least significant bit of its one
16-bit word. A row has 16 bits; of fewer bits, the ones above `nbits` are 0, and more are no instruction of
this hardware (R60). -/
def decodeTableWord (nbits w : Nat) : Option Instr :=
  if nbits ≤ 16 then
    match decode (wordBytes (BitVec.ofNat 16 (w % 2 ^ nbits))) with
    | .ok (i, _) => some i
    | .error _ => none
  else none

end Sys2Proof
end

