-- ==== Sys2Proof/Machine/Flags.lean ====
section
/-! DEFINITION. The results and flags of the flag-writing instructions (spec/42_alu.md R100, R107 to R111). -/

namespace Sys2Proof.Machine

/-- A flag as `VF` holds it: 1 or 0 (R12). -/
def flagByte (f : Bool) : Byte := if f then 1 else 0

/-- `(a + b) mod 256` (R100). -/
def byteSum (a b : Byte) : Byte := BitVec.ofNat 8 (a.toNat + b.toNat)

/-- Carry out of `a + b`: the exact sum is above 255 (R107). -/
def carryFlag (a b : Byte) : Bool := a.toNat + b.toNat > 255

/-- `(a - b) mod 256` (R100). -/
def byteDifference (a b : Byte) : Byte := BitVec.ofInt 8 ((a.toNat : Int) - (b.toNat : Int))

/-- No borrow in `a - b`: true when `a >= b` (R100, R108, R110). -/
def noBorrowFlag (a b : Byte) : Bool := a.toNat ≥ b.toNat

/-- `a >> 1`, bit 7 becomes 0 (R109). -/
def shiftedRight (a : Byte) : Byte := a >>> 1

/-- The bit `SHR` shifts out: bit 0 (R109). -/
def shiftOutRight (a : Byte) : Bool := a.getLsbD 0

/-- `(a << 1) mod 256`, bit 0 becomes 0 (R111). -/
def shiftedLeft (a : Byte) : Byte := a <<< 1

/-- The bit `SHL` shifts out: bit 7 (R111). -/
def shiftOutLeft (a : Byte) : Bool := a.getLsbD 7

end Sys2Proof.Machine
end

