-- ==== Sys2Proof/Config.lean ====
section
/-! DEFINITION. What is fixed for the machine: the sizes of spec/00_scope.md R5, and the two open parameters of R6:
`FONT`, an argument of power-on and of the host's operations, and the free draw. -/

namespace Sys2Proof.Config

/-- `MEM_SIZE` (R5): the number of memory bytes. -/
abbrev memSize : Nat := 4096

/-- The last address of memory, 0xFFF (R40, R42). -/
abbrev memTop : Nat := 0xFFF

/-- `PROG_BASE` (R5): where `Load` puts the program and where `pc` is after reset. -/
abbrev progBase : Nat := 0x200

/-- `FONT_LEN` (R5): the font table takes the addresses 0 to 79. -/
abbrev fontLen : Nat := 80

/-- `STACK_DEPTH` (R5). -/
abbrev stackDepth : Nat := 16

/-- `FB_W` (R5): columns of the framebuffer. -/
abbrev fbWidth : Nat := 64

/-- `FB_H` (R5): rows of the framebuffer. -/
abbrev fbHeight : Nat := 32

/-- `FONT[0..79]` (R6), an open parameter: `State.powerOn` and `perform` take it as an argument, and a claim
quantifies over it or takes it as a premise. The spec's default is `Machine.defaultFont` (log 2). -/
abbrev Font : Type := Vector Byte 80

/-- `random_byte()` (R6, R112): the value of the `n`-th draw. A FREE VALUE: it has no body, so nothing can be
proved of any draw, and a claim holds for every sequence of draws. DESIGN CHOICE (log 8), safe. -/
opaque randomByte (n : Nat) : Byte

end Sys2Proof.Config
end

