-- ==== Sys2Proof/Machine/Initial.lean ====
section
/-! DEFINITION. The reset contents of memory (spec/10_state.md R21, R22, R26): the font table at 0x000..0x04F,
zero everywhere else, with `FONT` at its default. It is also what an address that the memory list does not list
reads as (log 11): that is how a memory is written down, and it fixes no `FONT`. A machine with another `FONT` is
`State.powerOn font`, whose memory lists the bytes that differ.

The 80 bytes are the default the spec gives its parameter `FONT` (R6), `[from general knowledge, not in source]`
(D3): PRESUMED by the spec, unsafe (log 2). A claim about the shape of a glyph names `defaultFont` or any other
`Config.Font` as its premise. -/

namespace Sys2Proof.Machine

/-- Glyphs 0 to 7 of R22. -/
def fontGlyphsLow : List Byte :=
  [0xF0, 0x90, 0x90, 0x90, 0xF0] ++ [0x20, 0x60, 0x20, 0x20, 0x70] ++
  [0xF0, 0x10, 0xF0, 0x80, 0xF0] ++ [0xF0, 0x10, 0xF0, 0x10, 0xF0] ++
  [0x90, 0x90, 0xF0, 0x10, 0x10] ++ [0xF0, 0x80, 0xF0, 0x10, 0xF0] ++
  [0xF0, 0x80, 0xF0, 0x90, 0xF0] ++ [0xF0, 0x10, 0x20, 0x40, 0x40]

/-- Glyphs 8 to F of R22. -/
def fontGlyphsHigh : List Byte :=
  [0xF0, 0x90, 0xF0, 0x90, 0xF0] ++ [0xF0, 0x90, 0xF0, 0x10, 0xF0] ++
  [0xF0, 0x90, 0xF0, 0x90, 0x90] ++ [0xE0, 0x90, 0xE0, 0x90, 0xE0] ++
  [0xF0, 0x80, 0x80, 0x80, 0xF0] ++ [0xE0, 0x90, 0x90, 0x90, 0xE0] ++
  [0xF0, 0x80, 0xF0, 0x80, 0xF0] ++ [0xF0, 0x80, 0xF0, 0x80, 0x80]

/-- The default of `FONT[0..79]`, glyph `g` at `5*g` (R22). -/
def fontTable : List Byte := fontGlyphsLow ++ fontGlyphsHigh

/-- The default as a value of the parameter (R6, R22). -/
def defaultFont : Config.Font := ⟨⟨fontTable⟩, rfl⟩

/-- Byte `a` of the default; 0 beyond the table. -/
def fontByte (a : Nat) : Byte := fontTable.getD a 0

/-- The byte at address `a` after reset with the default `FONT` (R26). -/
def initialByte (a : Nat) : Byte := if a < Config.fontLen then fontByte a else 0

end Sys2Proof.Machine
end

