-- ==== Sys2Proof/Machine/Operands.lean ====
section
/-! DEFINITION. The operand forms and computed operands of the instructions: what an instruction derives from
its fields and from register values before it acts (spec/30_encoding.md R63, and the rules named below). -/

namespace Sys2Proof.Machine

/-- `nnn` zero-extended to 16 bits (R63). -/
def zextAddr (nnn : Addr12) : Word := nnn.setWidth 16

/-- The target of `JP V0,nnn`: `(V0 + nnn) mod 65536` (R97); never reduced to 12 bits (D7). -/
def jumpOffset (v0 : Byte) (nnn : Addr12) : Word := BitVec.ofNat 16 (v0.toNat + nnn.toNat)

/-- `I + Vx` modulo 65536 (R122). -/
def indexSum (i : Word) (vx : Byte) : Word := BitVec.ofNat 16 (i.toNat + vx.toNat)

/-- The key `Vx` selects: its low nibble (R140, the spec's decision D14; log 10). -/
def keyIndex (vx : Byte) : BitVec 4 := BitVec.ofNat 4 (vx.toNat % 16)

/-- The address of the font glyph for `Vx`: `(Vx * 5) mod 80` (R123). -/
def glyphAddress (vx : Byte) : Word := BitVec.ofNat 16 (vx.toNat * 5 % 80)

/-- The bytes `LD B,Vx` writes: hundreds, tens, ones (R124). -/
def bcdDigits (vx : Byte) : List Byte :=
  [BitVec.ofNat 8 (vx.toNat / 100), BitVec.ofNat 8 (vx.toNat / 10 % 10), BitVec.ofNat 8 (vx.toNat % 10)]

/-- The addresses of an access of `n` bytes at `a`, an unbounded sum, all lie in memory; an empty access has no
address (R42, R43, R44). -/
def accessOk (a n : Nat) : Bool := n == 0 || a + n - 1 ≤ 0xFFF

/-- Sprite column `b` of a sprite byte: bit 7 is the leftmost pixel (R130, the spec's decision D4; log 3). -/
def spriteBit (row : Byte) (b : Nat) : Bool := row.getLsbD (7 - b)

/-- The framebuffer index of column `b`, row `r` of a sprite drawn at `(Vx, Vy)`: each coordinate wraps on its
own (R132). -/
def pixelIndex (vx vy : Byte) (r b : Nat) : Nat := (vx.toNat + b) % 64 + 64 * ((vy.toNat + r) % 32)

end Sys2Proof.Machine
end

