-- ==== Sys2Proof/Machine/State.lean ====
section
/-! DEFINITION. Machine State (spec/10_state.md R10 to R26), the reasons a step of the model may stop, and
the state after reset. -/

namespace Sys2Proof.Machine

/-- The five kinds of fault the hardware raises (spec/60_exceptions.md R160). Taking one is a NEXT state of the
machine (R165), not a stop of the model. -/
inductive FaultKind where
  /-- Dispatch found no row for the word (R161). -/
  | unimplementedOpcode
  /-- An access would touch an address above 0xFFF (R162). -/
  | memoryOutOfBounds
  /-- `CALL` with 16 live entries (R163). -/
  | stackOverflow
  /-- `RET` with an empty stack (R163). -/
  | stackUnderflow
  /-- `Load` of more than 3584 bytes (R164). -/
  | loadTooLarge
deriving DecidableEq, Repr

/-- The fault record of R23: kind, address of the faulting instruction (0x200 for `LoadTooLarge`), fetched word
(0 when nothing was fetched). -/
structure FaultRecord where
  kind : FaultKind
  addr : Word
  opcode : Word
deriving DecidableEq, Repr

/-- Memory: the listed cells, addresses strictly rising, no cell equal to what an unlisted address reads as
(`initialByte`, the reset contents; log 11). -/
abbrev Memory := List Host.Cell

/-- The framebuffer: 32 rows of 64 one-bit pixels, top row first; bit `px` of row `py` is `fb[px + 64*py]`
(R20; log 12). -/
abbrev Framebuffer := Vector (BitVec 64) 32

/-- Machine State, everything R10 lists and one field of the model's own, `draws`. -/
structure State where
  /-- `memory`, 4096 bytes (R21). -/
  memory : Memory
  /-- `pc`, 16 bits, not masked (R13). -/
  pc : Word
  /-- `V[0]`..`V[15]`; `V[15]` is `VF` (R11, R12). -/
  V : Vector Byte 16
  /-- `I`, 16 bits, not masked (R14). -/
  I : Word
  /-- `stack[0]`..`stack[15]`, outside memory (R15). -/
  stack : Vector Word 16
  /-- `sp`, 0 to 16, the next free slot (R15). -/
  sp : Fin 17
  /-- The delay timer (R18). -/
  DT : Byte
  /-- The sound timer (R18). -/
  ST : Byte
  /-- `key[k]` is true while key `k` is down (R19). -/
  key : Vector Bool 16
  /-- `fb` (R20). -/
  fb : Framebuffer
  /-- The halt latch of R23: `none` is `halted = false` (then `fault` has no meaning), `some r` is
  `halted = true` with `fault = r` (log 7). -/
  fault : Option FaultRecord
  /-- The MODEL'S OWN field: how many draws of `random_byte()` were made; the next draw is
  `Config.randomByte draws` (R112; log 8). No statement rests on its value. -/
  draws : Nat
deriving DecidableEq, Repr

/-- The reasons the machine stops outside the spec: there are none. Every fault of the spec has an entry the spec
describes (R165) and is a next state, and the spec leaves no behaviour without an effect
(spec/93_implementation_defined.md). No step and no meaning raises anything here (log 20). -/
inductive Fault where
deriving DecidableEq, Repr

/-- The reasons the model has no meaning for an instruction. -/
inductive Refusal where
  /-- An instruction without a meaning, by its mnemonic in spec/opcode_table.json. No arm of `exec` raises it:
  every instruction has its meaning (safe). -/
  | notModelled (mnemonic : String)
deriving DecidableEq, Repr

/-- The machine after `Reset` and after power-on (R26, R180, R181), with the default `FONT` (log 2); with any other it
is `State.powerOn`. `draws` is the model's own: DESIGN CHOICE, log 8. -/
def State.reset : State where
  memory := []
  pc := 0x200
  V := Vector.replicate 16 0
  I := 0
  stack := Vector.replicate 16 0
  sp := 0
  DT := 0
  ST := 0
  key := Vector.replicate 16 false
  fb := Vector.replicate 32 0
  fault := none
  draws := 0

end Sys2Proof.Machine
end

