-- ==== Sys2Proof/Machine/Ops.lean ====
section
/-! DEFINITION. The named operations over the state that every meaning is written with: registers, memory, stack,
framebuffer, the random draw, and taking a fault. -/

namespace Sys2Proof.Machine

/-- What a step answers. -/
abbrev Result := Host.Outcome State Fault Refusal

/-! ### Registers (spec/10_state.md R11 to R14, R18, R19) -/

/-- Read `V[x]`. -/
def State.reg (s : State) (x : Reg) : Byte := s.V[x.toNat]'x.isLt

/-- `V[x] <- b`. -/
def State.setReg (s : State) (x : Reg) (b : Byte) : State := { s with V := s.V.set x.toNat b x.isLt }

/-- `VF <- 0 or 1`. -/
def State.setFlag (s : State) (f : Bool) : State := s.setReg 15 (flagByte f)

/-- Write a result and the flag, the flag LAST (spec/40_cycle_controller.md R87, decision D6; log 4). -/
def State.setRegFlag (s : State) (x : Reg) (b : Byte) (f : Bool) : State := (s.setReg x b).setFlag f

/-- `pc <- a`. -/
def State.setPc (s : State) (a : Word) : State := { s with pc := a }

/-- `I <- a`. -/
def State.setI (s : State) (a : Word) : State := { s with I := a }

/-- `DT <- b`. -/
def State.setDT (s : State) (b : Byte) : State := { s with DT := b }

/-- `ST <- b`. -/
def State.setST (s : State) (b : Byte) : State := { s with ST := b }

/-- `key[k]`. -/
def State.keyDown (s : State) (k : BitVec 4) : Bool := s.key[k.toNat]'k.isLt

/-- `key[k] <- pressed`. -/
def State.setKey (s : State) (k : BitVec 4) (pressed : Bool) : State :=
  { s with key := s.key.set k.toNat pressed k.isLt }

/-- The lowest key that is down, if any (spec/45_timer_keypad.md R144). -/
def State.lowestKey (s : State) : Option Nat :=
  (List.range 16).find? (fun k => s.keyDown (BitVec.ofNat 4 k))

/-- Skip the next instruction when the condition holds: `pc <- (pc + 2) mod 65536`
(spec/41_control_flow.md R90). -/
def State.skipIf (s : State) (c : Bool) : State := if c then s.setPc (s.pc + 2) else s

/-! ### Memory (spec/20_memory.md R40 to R48) -/

/-- The cells have addresses that rise strictly from `lo` on and lie in memory, and none equals what an unlisted
address reads as. -/
def Memory.wfFrom : Nat → Memory → Bool
  | _, [] => true
  | lo, (a, b) :: rest =>
    decide (lo ≤ a) && decide (a ≤ Config.memTop) && decide (b ≠ initialByte a) && Memory.wfFrom (a + 1) rest

/-- The canonical form of memory. -/
def Memory.wf (m : Memory) : Bool := Memory.wfFrom 0 m

/-- The byte at an address. -/
def Memory.read : Memory → Nat → Byte
  | [], a => initialByte a
  | (a', b) :: rest, a => if a = a' then b else Memory.read rest a

/-- Write one byte and keep the canonical form. -/
def Memory.write : Memory → Nat → Byte → Memory
  | [], a, b => if b = initialByte a then [] else [(a, b)]
  | (a', b') :: rest, a, b =>
    if a < a' then
      if b = initialByte a then (a', b') :: rest else (a, b) :: (a', b') :: rest
    else if a = a' then
      if b = initialByte a then rest else (a, b) :: rest
    else (a', b') :: Memory.write rest a b

/-- Write bytes at increasing addresses from `a` on (R43, R48). -/
def Memory.writeList : Memory → Nat → List Byte → Memory
  | m, _, [] => m
  | m, a, b :: bs => Memory.writeList (Memory.write m a b) (a + 1) bs

/-- Read the byte at `a` (R42 with `n = 1`, once the access is known to be in bounds). -/
def State.readByte (s : State) (a : Nat) : Byte := s.memory.read a

/-- Write bytes from `a` on (R43, once the access is known to be in bounds). -/
def State.writeBytes (s : State) (a : Nat) (bs : List Byte) : State :=
  { s with memory := s.memory.writeList a bs }

/-- The instruction word at `pc`, big-endian; `none` when `pc + 1 > 0xFFF`
(spec/40_cycle_controller.md R81, spec/20_memory.md R45). -/
def State.fetchWord (s : State) : Option Word :=
  if accessOk s.pc.toNat 2 then
    some (bigEndian (s.readByte s.pc.toNat) (s.readByte (s.pc.toNat + 1)))
  else none

/-- `V[0]`..`V[x]`, in order (spec/43_index_memory.md R125). -/
def State.regsUpTo (s : State) (x : Reg) : List Byte :=
  (List.range (x.toNat + 1)).map (fun k => s.reg (BitVec.ofNat 4 k))

/-- `V[k] <- memory[a + k]` for `k` in `0..x` (R126). -/
def State.loadRegsFrom (s : State) (a : Nat) (x : Reg) : State :=
  (List.range (x.toNat + 1)).foldl (fun t k => t.setReg (BitVec.ofNat 4 k) (s.readByte (a + k))) s

/-! ### Stack (spec/10_state.md R15 to R17) -/

/-- `push`; `none` is `StackOverflow` (R16). -/
def State.push (s : State) (v : Word) : Option State :=
  if h : s.sp.val = Config.stackDepth then none
  else
    have : s.sp.val < 16 := by have := s.sp.isLt; have : Config.stackDepth = 16 := rfl; omega
    some { s with stack := s.stack.set s.sp.val v this, sp := ⟨s.sp.val + 1, by omega⟩ }

/-- `pop`, the popped value and the state after it; the slot keeps its value; `none` is `StackUnderflow` (R17). -/
def State.pop (s : State) : Option (Word × State) :=
  if h : s.sp.val = 0 then none
  else
    have := s.sp.isLt
    some (s.stack[s.sp.val - 1]'(by omega), { s with sp := ⟨s.sp.val - 1, by omega⟩ })

/-! ### Framebuffer (spec/10_state.md R20) -/

/-- `fb[k]`, for `k` in 0..2047. -/
def Framebuffer.get (fb : Framebuffer) (k : Nat) : Bool :=
  if h : k / 64 < 32 then fb[k / 64].getLsbD (k % 64) else false

/-- `fb[k] <- not fb[k]`. -/
def Framebuffer.toggle (fb : Framebuffer) (k : Nat) : Framebuffer :=
  if h : k / 64 < 32 then fb.set (k / 64) (fb[k / 64] ^^^ BitVec.twoPow 64 (k % 64)) else fb

/-- All pixels false (spec/44_graphics.md R131). -/
def Framebuffer.blank : Framebuffer := Vector.replicate 32 0

/-- `fb[k]` of a state. -/
def State.pixel (s : State) (k : Nat) : Bool := s.fb.get k

/-- Replace the framebuffer. -/
def State.setFb (s : State) (fb : Framebuffer) : State := { s with fb := fb }

/-! ### The random draw (spec/42_alu.md R112) -/

/-- `draw()`: a fresh free value, and the state that has used it up. -/
def State.draw (s : State) : Byte × State := (Config.randomByte s.draws, { s with draws := s.draws + 1 })

/-! ### Taking a fault (spec/60_exceptions.md R165)

There is no return from a fault (R167): only the host operation `Reset` clears the latch. -/

/-- `halted` (R23). -/
def State.halted (s : State) : Bool := s.fault.isSome

/-- `raise K(info)`, on the state the operation began with (everything the operation did is discarded):
the latch is set and the record written; nothing else changes. -/
def State.raise (s : State) (k : FaultKind) (addr opcode : Word) : State :=
  { s with fault := some { kind := k, addr := addr, opcode := opcode } }

/-- `raise` from a handler, before it has written anything: `pc` is the instruction's address again, which is
also the record's `addr`; the record's `opcode` is the instruction's word (R160, R165, decision D9; log 6). -/
def State.raiseExec (s : State) (k : FaultKind) (i : Instr) : State :=
  (s.setPc (s.pc - 2)).raise k (s.pc - 2) (encode i)

/-- Do an instruction that accesses `n` bytes from `I` on: `done` is the state it leaves; when an address of the
range lies above 0xFFF, `MemoryOutOfBounds` and nothing else (R44, R162). -/
def State.accessing (s : State) (n : Nat) (i : Instr) (done : State) : State :=
  if accessOk s.I.toNat n then done else s.raiseExec .memoryOutOfBounds i

/-- The ordinal of a fault kind (R160, decision D27). -/
def FaultKind.ordinal : FaultKind → Nat
  | .unimplementedOpcode => 1
  | .memoryOutOfBounds => 2
  | .stackOverflow => 3
  | .stackUnderflow => 4
  | .loadTooLarge => 5

end Sys2Proof.Machine
end

