-- ==== Sys2Proof/Machine/Alu.lean ====
section
/-! DEFINITION. Register load, arithmetic, logic, shift and random instructions (spec/42_alu.md R100 to R114). -/

namespace Sys2Proof.Machine

/-- `LD Vx,nn` (R101). -/
def execLdByte (x : Reg) (nn : Byte) (s : State) : Result := .next (s.setReg x nn)

/-- `ADD Vx,nn`: no flag (R102). -/
def execAddByte (x : Reg) (nn : Byte) (s : State) : Result := .next (s.setReg x (byteSum (s.reg x) nn))

/-- `LD Vx,Vy` (R103). -/
def execLdReg (x y : Reg) (s : State) : Result := .next (s.setReg x (s.reg y))

/-- `OR Vx,Vy`: no flag (R104). -/
def execOrReg (x y : Reg) (s : State) : Result := .next (s.setReg x (s.reg x ||| s.reg y))

/-- `AND Vx,Vy`: no flag (R105). -/
def execAndReg (x y : Reg) (s : State) : Result := .next (s.setReg x (s.reg x &&& s.reg y))

/-- `XOR Vx,Vy`: no flag (R106). -/
def execXorReg (x y : Reg) (s : State) : Result := .next (s.setReg x (s.reg x ^^^ s.reg y))

/-- `ADD Vx,Vy`: `VF` is the carry (R107). -/
def execAddReg (x y : Reg) (s : State) : Result :=
  .next (s.setRegFlag x (byteSum (s.reg x) (s.reg y)) (carryFlag (s.reg x) (s.reg y)))

/-- `SUB Vx,Vy`: `VF` is the no-borrow flag of `Vx - Vy` (R108). -/
def execSubReg (x y : Reg) (s : State) : Result :=
  .next (s.setRegFlag x (byteDifference (s.reg x) (s.reg y)) (noBorrowFlag (s.reg x) (s.reg y)))

/-- `SHR Vx`: `Vy` has no role (R109). -/
def execShr (x _y : Reg) (s : State) : Result :=
  .next (s.setRegFlag x (shiftedRight (s.reg x)) (shiftOutRight (s.reg x)))

/-- `SUBN Vx,Vy`: `VF` is the no-borrow flag of `Vy - Vx` (R110). -/
def execSubnReg (x y : Reg) (s : State) : Result :=
  .next (s.setRegFlag x (byteDifference (s.reg y) (s.reg x)) (noBorrowFlag (s.reg y) (s.reg x)))

/-- `SHL Vx`: `Vy` has no role (R111). -/
def execShl (x _y : Reg) (s : State) : Result :=
  .next (s.setRegFlag x (shiftedLeft (s.reg x)) (shiftOutLeft (s.reg x)))

/-- `RND Vx,nn`: a fresh draw and `nn` (R112). -/
def execRnd (x : Reg) (nn : Byte) (s : State) : Result :=
  .next (s.draw.2.setReg x (s.draw.1 &&& nn))

end Sys2Proof.Machine
end

