-- ==== Sys2Proof/Machine/ControlFlow.lean ====
section
/-! DEFINITION. Control flow (spec/41_control_flow.md R90 to R99). On entry `pc` is the address of the instruction
plus 2 (R82). -/

namespace Sys2Proof.Machine

/-- `RET` (R91). -/
def execRet (s : State) : Result :=
  match s.pop with
  | some (ret, t) => .next (t.setPc ret)
  | none => .next (s.raiseExec .stackUnderflow .ret)

/-- `JP nnn` (R92). -/
def execJp (nnn : Addr12) (s : State) : Result := .next (s.setPc (zextAddr nnn))

/-- `CALL nnn` (R93). -/
def execCall (nnn : Addr12) (s : State) : Result :=
  match s.push s.pc with
  | some t => .next (t.setPc (zextAddr nnn))
  | none => .next (s.raiseExec .stackOverflow (.call nnn))

/-- `SE Vx,nn` (R94). -/
def execSeByte (x : Reg) (nn : Byte) (s : State) : Result := .next (s.skipIf (s.reg x == nn))

/-- `SNE Vx,nn` (R95). -/
def execSneByte (x : Reg) (nn : Byte) (s : State) : Result := .next (s.skipIf (s.reg x != nn))

/-- `SE Vx,Vy` (R96). -/
def execSeReg (x y : Reg) (s : State) : Result := .next (s.skipIf (s.reg x == s.reg y))

/-- `SNE Vx,Vy` (R98). -/
def execSneReg (x y : Reg) (s : State) : Result := .next (s.skipIf (s.reg x != s.reg y))

/-- `JP V0,nnn` (R97). -/
def execJpV0 (nnn : Addr12) (s : State) : Result := .next (s.setPc (jumpOffset (s.reg 0) nnn))

end Sys2Proof.Machine
end

