-- ==== Sys2Proof/Machine/Graphics.lean ====
section
/-! DEFINITION. Graphics instructions (spec/44_graphics.md R130 to R133). -/

namespace Sys2Proof.Machine

/-- What `DRW` builds up: the framebuffer so far and whether a pixel went from true to false. -/
structure Canvas where
  fb : Framebuffer
  collision : Bool
deriving DecidableEq, Repr

/-- Toggle pixel `k` and note a collision (R132). -/
def Canvas.flip (c : Canvas) (k : Nat) : Canvas :=
  { fb := c.fb.toggle k, collision := c.collision || c.fb.get k }

/-- Draw row `r` of a sprite, columns 0 to 7, at `(vx, vy)` (R132). -/
def Canvas.drawRow (c : Canvas) (vx vy : Byte) (r : Nat) (row : Byte) : Canvas :=
  (List.range 8).foldl (fun c b => if spriteBit row b then c.flip (pixelIndex vx vy r b) else c) c

/-- Draw the `n` rows whose bytes stand in memory from `a` on (R132). -/
def Canvas.drawSprite (c : Canvas) (m : Memory) (a n : Nat) (vx vy : Byte) : Canvas :=
  (List.range n).foldl (fun c r => c.drawRow vx vy r (m.read (a + r))) c

/-- `CLS`: `VF` is not written (R131). -/
def execCls (s : State) : Result := .next (s.setFb Framebuffer.blank)

/-- The canvas `DRW` leaves: the sprite at `I` drawn at `(Vx, Vy)` on the framebuffer (R132). -/
def State.drawn (s : State) (x y : Reg) (n : Nibble) : Canvas :=
  Canvas.drawSprite { fb := s.fb, collision := false } s.memory s.I.toNat n.toNat (s.reg x) (s.reg y)

/-- `DRW Vx,Vy,n`: `VF` is the collision flag, written last and always; `n = 0` reads and draws nothing (R132). -/
def execDrw (x y : Reg) (n : Nibble) (s : State) : Result :=
  .next (s.accessing n.toNat (.drw x y n)
    ((s.setFb (s.drawn x y n).fb).setFlag (s.drawn x y n).collision))

end Sys2Proof.Machine
end

