-- ==== Sys2Proof/Machine/IndexMemory.lean ====
section
/-! DEFINITION. Index-register and memory instructions (spec/43_index_memory.md R120 to R127). -/

namespace Sys2Proof.Machine

/-- `LD I,nnn` (R121). -/
def execLdI (nnn : Addr12) (s : State) : Result := .next (s.setI (zextAddr nnn))

/-- `ADD I,Vx`: no flag (R122). -/
def execAddI (x : Reg) (s : State) : Result := .next (s.setI (indexSum s.I (s.reg x)))

/-- `LD F,Vx` (R123). -/
def execLdF (x : Reg) (s : State) : Result := .next (s.setI (glyphAddress (s.reg x)))

/-- `LD B,Vx` (R124). -/
def execLdB (x : Reg) (s : State) : Result :=
  .next (s.accessing 3 (.ldB x) (s.writeBytes s.I.toNat (bcdDigits (s.reg x))))

/-- `LD [I],Vx`: `V0`..`Vx`; `I` is unchanged (R125, R127). -/
def execStoreRegs (x : Reg) (s : State) : Result :=
  .next (s.accessing (x.toNat + 1) (.storeRegs x) (s.writeBytes s.I.toNat (s.regsUpTo x)))

/-- `LD Vx,[I]`: `V0`..`Vx`; `I` is unchanged (R126, R127). -/
def execLoadRegs (x : Reg) (s : State) : Result :=
  .next (s.accessing (x.toNat + 1) (.loadRegs x) (s.loadRegsFrom s.I.toNat x))

end Sys2Proof.Machine
end

