-- ==== Sys2Proof/Machine/TimerKeypad.lean ====
section
/-! DEFINITION. Timer and keypad instructions (spec/45_timer_keypad.md R140 to R147). -/

namespace Sys2Proof.Machine

/-- `SKP Vx` (R141). -/
def execSkp (x : Reg) (s : State) : Result := .next (s.skipIf (s.keyDown (keyIndex (s.reg x))))

/-- `SKNP Vx` (R142). -/
def execSknp (x : Reg) (s : State) : Result := .next (s.skipIf (!s.keyDown (keyIndex (s.reg x))))

/-- `LD Vx,DT` (R143). -/
def execLdVxDt (x : Reg) (s : State) : Result := .next (s.setReg x s.DT)

/-- `LD Vx,K`: the lowest key down, or the same instruction again at the next `Tick` (R144, R147). -/
def execLdVxK (x : Reg) (s : State) : Result :=
  match s.lowestKey with
  | some k => .next (s.setReg x (BitVec.ofNat 8 k))
  | none => .next (s.setPc (s.pc - 2))

/-- `LD DT,Vx` (R145). -/
def execLdDtVx (x : Reg) (s : State) : Result := .next (s.setDT (s.reg x))

/-- `LD ST,Vx` (R146). -/
def execLdStVx (x : Reg) (s : State) : Result := .next (s.setST (s.reg x))

end Sys2Proof.Machine
end

