-- ==== Sys2Proof/Machine/Tick.lean ====
section
/-! DEFINITION. The stages of `Tick` (spec/40_cycle_controller.md R80 to R85), which Machine/Step.lean calls. -/

namespace Sys2Proof.Machine

/-- Decode, dispatch and execute the fetched word: `pc` is advanced by 2 before the handler runs (R82); a word
without a row raises `UnimplementedOpcode` on the state before the advance (R83, R165). -/
def tickWord (s : State) (op : Word) : Result :=
  match decodeWord op with
  | some i => exec i (s.setPc (s.pc + 2))
  | none => .next (s.raise .unimplementedOpcode s.pc op)

/-- `Tick()` (R80): nothing changes while halted (R85); a fetch outside memory raises `MemoryOutOfBounds` with
`opcode = 0` (R81). -/
def tick (s : State) : Result :=
  if s.halted then .next s
  else
    match s.fetchWord with
    | some op => tickWord s op
    | none => .next (s.raise .memoryOutOfBounds s.pc 0)

/-- What `Tick` returns, read from the state it leaves: `Ok` (`none`) or `Err(fault)` (R85). -/
def tickReturn (after : State) : Option FaultRecord := after.fault

/-- A state whose next `Tick` can fetch: not halted, and `pc` with two bytes in memory; `pc` is moved to the
program's start only when no fetch is possible where it is. -/
def State.fetchable (s : State) : State :=
  { s with fault := none, pc := if accessOk s.pc.toNat 2 then s.pc else BitVec.ofNat 16 Config.progBase }

end Sys2Proof.Machine
end

