-- ==== Sys2Proof/Machine/Step.lean ====
section
/-! DEFINITION. One step of the machine is one `Tick` (spec/40_cycle_controller.md R80, R84). The other host
operations are in Machine/Interface.lean (log 17). -/

namespace Sys2Proof.Machine

/-- One `Tick`. -/
def step (s : State) : Host.Outcome State Fault Refusal := tick s

/-- `s` with an instruction word stored where the next `Tick` fetches: the two bytes at `pc`, the high byte first.
From `State.reset` nothing but memory changes; a halted state or a `pc` outside memory is made able to fetch
first. It stands for the host's `Load` (log 21). -/
def State.withFetchWord (s : State) (nbits w : Nat) : State :=
  s.fetchable.writeBytes s.fetchable.pc.toNat (wordBytes (BitVec.ofNat 16 (w % 2 ^ nbits)))

end Sys2Proof.Machine
end

