-- ==== Sys2Proof/Machine/HostOps.lean ====
section
/-! DEFINITION. What the host operations other than `Tick` do to the state (spec/47_host_interface.md R150 to
R158). Each is one atomic transition (R49). -/

namespace Sys2Proof.Machine

/-- A ROM fits at 0x200 (R152): `len(rom) + 0x200 <= 4096`. -/
def romFits (rom : List Byte) : Bool := rom.length + Config.progBase ≤ Config.memSize

/-- `Load(rom)`: copy to 0x200 upward, or `LoadTooLarge` and nothing copied (R152, R164). -/
def State.load (s : State) (rom : List Byte) : State :=
  if romFits rom then s.writeBytes Config.progBase rom else s.raise .loadTooLarge 0x200 0

/-- The machine at power-on with a given `FONT` (spec/00_scope.md R6, spec/10_state.md R26): `memory[k] = FONT[k]`
for `k` in 0..79, everything else as in `State.reset`, which is `State.powerOn defaultFont`
(`State.powerOn_defaultFont`). -/
def State.powerOn (font : Config.Font) : State := State.reset.writeBytes 0 font.toList

/-- `Reset()`: the power-on state, the font table re-seeded from `FONT` (R153, R180). The draws used up stay used up:
nothing says that a reset restarts the random source (spec/91_not_in_source.md N7; log 8). -/
def State.resetMachine (s : State) (font : Config.Font) : State := { State.powerOn font with draws := s.draws }

/-- `KeyEvent(index, pressed)`; the index is 4 bits wide (R154). -/
def State.keyEvent (s : State) (index : BitVec 4) (pressed : Bool) : State := s.setKey index pressed

/-- `Snapshot()`: element `k` is `fb[k]` (R155). -/
def State.snapshot (s : State) : List Bool := (List.range 2048).map s.pixel

/-- One timer counted down to 0, never below (R156, decision D12; log 9). -/
def timerDown (t : Byte) : Byte := if t.toNat > 0 then BitVec.ofNat 8 (t.toNat - 1) else t

/-- `TickTimers()`: both timers, each on its own (R156). -/
def State.tickTimers (s : State) : State := (s.setDT (timerDown s.DT)).setST (timerDown s.ST)

/-- What the host observes of the sound timer (spec/60_exceptions.md R174). -/
def State.soundActive (s : State) : Bool := s.ST != 0

end Sys2Proof.Machine
end

