-- ==== Sys2Proof/Machine/Interface.lean ====
section
/-! DEFINITION. The host interface as one transition per operation (spec/47_host_interface.md R150): six atomic
operations with arguments and results. A claim over every interleaving of whole operations (R189) is a claim over
every list of operations (log 17). -/

namespace Sys2Proof.Machine

/-- A host operation with its arguments (R150). -/
inductive HostOp where
  /-- `Load(rom)` (R152). -/
  | load (rom : List Byte)
  /-- `Tick()` (R151). -/
  | tick
  /-- `Reset()` (R153). -/
  | reset
  /-- `KeyEvent(index, pressed)` (R154). -/
  | keyEvent (index : BitVec 4) (pressed : Bool)
  /-- `Snapshot()` (R155). -/
  | snapshot
  /-- `TickTimers()` (R156). -/
  | tickTimers
deriving DecidableEq, Repr

/-- What an operation returns (R150). -/
inductive HostResult where
  /-- No result: `Reset`, `KeyEvent`, `TickTimers`. -/
  | unit
  /-- `Ok`. -/
  | ok
  /-- `Err(fault)`. -/
  | err (fault : FaultRecord)
  /-- The 2048 booleans of `Snapshot`. -/
  | picture (fb : List Bool)
  /-- The model's own: `Tick` met an instruction without a meaning. It never happens (`Refusal`). -/
  | refused (r : Refusal)
deriving DecidableEq, Repr

/-- `Ok`, or `Err` with the record. -/
def HostResult.ofFault : Option FaultRecord → HostResult
  | none => .ok
  | some r => .err r

/-- `Tick` as the host calls it (R85). -/
def performTick (s : State) : State × HostResult :=
  match step s with
  | .next t => (t, HostResult.ofFault (tickReturn t))
  | .fault f => nomatch f
  | .refused r => (s, .refused r)

/-- `Load` as the host calls it: `Err(LoadTooLarge)` exactly when the ROM does not fit, halted or not (R152,
R157). -/
def performLoad (s : State) (rom : List Byte) : State × HostResult :=
  (s.load rom, if romFits rom then .ok else HostResult.ofFault (s.load rom).fault)

/-- One operation of the host on a machine whose parameter `FONT` is `font`: the state after it and its result
(R150). Only `Reset` reads `FONT` (R180). -/
def perform (font : Config.Font) (op : HostOp) (s : State) : State × HostResult :=
  match op with
  | .load rom => performLoad s rom
  | .tick => performTick s
  | .reset => (s.resetMachine font, .unit)
  | .keyEvent index pressed => (s.keyEvent index pressed, .unit)
  | .snapshot => (s, .picture s.snapshot)
  | .tickTimers => (s.tickTimers, .unit)

/-- A sequence of operations, first to last. -/
def performAll (font : Config.Font) (ops : List HostOp) (s : State) : State :=
  ops.foldl (fun t op => (perform font op t).1) s

end Sys2Proof.Machine
end

