-- ==== Sys2Proof/Safety.lean ====
section
/-! DEFINITION. The terms claims are made in: what an instruction may write, when a `Tick` faults, the invariant
of the machine, and when a run is safe or has ended. -/

namespace Sys2Proof

/-! ### What an instruction writes (spec/10_state.md R12, R27) -/

/-- The six instructions that write `VF` as a flag (R12). -/
def Instr.writesFlag : Instr → Bool
  | .addReg _ _ | .subReg _ _ | .shr _ _ | .subnReg _ _ | .shl _ _ | .drw _ _ _ => true
  | _ => false

/-- The register is a destination of the instruction, or `VF` of a flag-writing one (R27, column V). -/
def Instr.writesReg (i : Instr) (r : Reg) : Bool :=
  (i.writesFlag && r == 15) ||
  match i with
  | .ldByte x _ | .addByte x _ | .rnd x _ => r == x
  | .ldReg x _ | .orReg x _ | .andReg x _ | .xorReg x _ => r == x
  | .addReg x _ | .subReg x _ | .shr x _ | .subnReg x _ | .shl x _ => r == x
  | .ldVxDt x | .ldVxK x => r == x
  | .loadRegs x => r.toNat ≤ x.toNat
  | _ => false

/-- The instruction writes `pc` after the fetch advance (R13). -/
def Instr.writesPc : Instr → Bool
  | .ret | .jp _ | .call _ | .jpV0 _ => true
  | .seByte _ _ | .sneByte _ _ | .seReg _ _ | .sneReg _ _ | .skp _ | .sknp _ | .ldVxK _ => true
  | _ => false

/-- The instruction writes `I` (R14). -/
def Instr.writesI : Instr → Bool
  | .ldI _ | .addI _ | .ldF _ => true
  | _ => false

/-- The instruction accesses `stack` and `sp` (R15). -/
def Instr.writesStack : Instr → Bool
  | .ret | .call _ => true
  | _ => false

/-- The instruction writes the framebuffer (R20). -/
def Instr.writesFb : Instr → Bool
  | .cls | .drw _ _ _ => true
  | _ => false

/-- The instruction writes memory (R27). -/
def Instr.writesMemory : Instr → Bool
  | .ldB _ | .storeRegs _ => true
  | _ => false

namespace Machine

/-! ### When a `Tick` faults (spec/60_exceptions.md R160, R162, R163, R168) -/

/-- The fault a handler raises on the state it starts from, with the conditions as R162 and R163 write them. -/
def handlerFault (i : Instr) (s : State) : Option FaultKind :=
  match i with
  | .call _ => if s.sp.val = 16 then some .stackOverflow else none
  | .ret => if s.sp.val = 0 then some .stackUnderflow else none
  | .drw _ _ n => if n.toNat ≥ 1 ∧ s.I.toNat + n.toNat - 1 > 0xFFF then some .memoryOutOfBounds else none
  | .ldB _ => if s.I.toNat + 2 > 0xFFF then some .memoryOutOfBounds else none
  | .storeRegs x => if s.I.toNat + x.toNat > 0xFFF then some .memoryOutOfBounds else none
  | .loadRegs x => if s.I.toNat + x.toNat > 0xFFF then some .memoryOutOfBounds else none
  | _ => none

/-- The record in the latch after a `Tick`, in the order of R168: the latched one, the fetch's, the decoder's, the
handler's, or none. -/
def tickFault (s : State) : Option FaultRecord :=
  match s.fault with
  | some r => some r
  | none =>
    if s.pc.toNat + 1 > 0xFFF then some { kind := .memoryOutOfBounds, addr := s.pc, opcode := 0 }
    else
      let op : Word := s.readByte s.pc.toNat ++ s.readByte (s.pc.toNat + 1)
      match decodeWord op with
      | none => some { kind := .unimplementedOpcode, addr := s.pc, opcode := op }
      | some i => (handlerFault i s).map (fun k => { kind := k, addr := s.pc, opcode := op })

/-! ### Drawing (spec/44_graphics.md R132) -/

/-- A set bit of the sprite `DRW Vx,Vy,n` draws from state `s` lands on framebuffer index `k`. -/
def SpriteHits (s : State) (x y : Reg) (n : Nibble) (k : Nat) : Prop :=
  ∃ r < n.toNat, ∃ b < 8,
    (s.readByte (s.I.toNat + r)).getLsbD (7 - b) = true ∧
    ((s.reg x).toNat + b) % 64 + 64 * (((s.reg y).toNat + r) % 32) = k

/-! ### The invariant -/

/-- What holds at reset and after every operation: memory is in canonical form; `pc` is at most 0x10FE and every
stack entry at most 0x1000 (R13); a fault of a `Tick` is recorded at the address `pc` still holds (R165). -/
def State.Inv (s : State) : Prop :=
  s.memory.wf = true ∧ s.pc.toNat ≤ 0x10FE ∧ (∀ (k : Nat) (h : k < 16), s.stack[k].toNat ≤ 0x1000) ∧
  ∀ r, s.fault = some r → r.kind ≠ .loadTooLarge → r.addr = s.pc

/-! ### Runs -/

/-- A run of host operations is safe when no state on the way is halted (R166). -/
def SafeRun (font : Config.Font) (s : State) : List HostOp → Prop
  | [] => s.halted = false
  | op :: ops => s.halted = false ∧ SafeRun font (perform font op s).1 ops

/-- The program has ended normally: not halted, and the instruction at `pc` is `JP pc`
(spec/70_reset_and_hazards.md R186, decision D23; log 22). -/
def State.EndedNormally (s : State) : Prop :=
  s.halted = false ∧ s.pc.toNat ≤ 0xFFE ∧ s.fetchWord = some (0x1000 ||| s.pc)

end Machine

end Sys2Proof
end

