-- ==== Sys2Proof/Certificates/Slice0/Obligations.lean ====
section
/-! DEFINITION. The statements for the provers.
In the statements about one instruction `s` is the state its handler starts from, so `s.pc` is the address of the
instruction plus 2 (spec/40_cycle_controller.md R82). `t = { s with V := t.V }` says that every field but `V` is
unchanged: `pc`, `I`, stack, timers, keys, framebuffer, every byte of memory, the latch. `s.memory.wf` is the part of
the invariant that says memory is in canonical form; StepKeepsInvariant and HostRunsKeepInvariant keep it. -/

open Sys2Proof Sys2Proof.Machine

/-! ### Reset and the invariant -/

/-- R6, R26, R180, R181: every piece of state at its reset value, for every `FONT`; `State.reset` is the power-on state
with the spec's default of it (D3, log 2). That `I` and the keys are cleared is the spec's decision D19 (log 15), the
latch D10 (log 7). -/
def Obligations.ResetLeavesPowerOnState : Prop :=
  (∀ font : Config.Font,
    let s := State.powerOn font
    s.pc = 0x200 ∧ (∀ x, s.reg x = 0) ∧ s.I = 0 ∧ s.sp = 0 ∧ (∀ (k : Nat) (h : k < 16), s.stack[k] = 0) ∧
    s.DT = 0 ∧ s.ST = 0 ∧ (∀ k, s.keyDown k = false) ∧ (∀ k < 2048, s.pixel k = false) ∧
    (∀ (a : Nat) (h : a < 80), s.readByte a = font[a]) ∧ (∀ a, 80 ≤ a → a ≤ 0xFFF → s.readByte a = 0) ∧
    s.halted = false) ∧
  State.reset = State.powerOn defaultFont

/-- R153, R180: the operation `Reset` from any state, halted or not, gives the power-on state, the font table
re-seeded from whatever `FONT` is. The count of draws used up, the model's own field, is kept (log 8). -/
def Obligations.ResetOperationFromAnyState : Prop :=
  ∀ (font : Config.Font) (s : State), perform font .reset s = ({ State.powerOn font with draws := s.draws }, .unit)

/-- The invariant holds after reset, and at power-on with every `FONT`. -/
def Obligations.ResetMeetsInvariant : Prop := State.reset.Inv ∧ ∀ font : Config.Font, (State.powerOn font).Inv

/-- Every step keeps the invariant: canonical memory, `pc <= 0x10FE`, stack entries `<= 0x1000` (R13), a `Tick`
fault recorded at `pc` (R165, decision D9, log 6). -/
def Obligations.StepKeepsInvariant : Prop :=
  ∀ s t : State, s.Inv → step s = .next t → t.Inv

/-- Every host operation keeps the invariant, and so does every sequence of them: any interleaving (R189), any
`FONT`. -/
def Obligations.HostRunsKeepInvariant : Prop :=
  ∀ (font : Config.Font) (ops : List HostOp) (s : State), s.Inv → (performAll font ops s).Inv

/-- Two memories in canonical form that read the same at every address are the same list (the model's
representation, log 11). -/
def Obligations.CanonicalMemoriesAreEqualByReads : Prop :=
  ∀ m m' : Memory, m.wf = true → m'.wf = true → (∀ a, m.read a = m'.read a) → m = m'

/-! ### Encoding (the opcode values are the spec's decision D1, log 1) -/

/-- Decoding the word of an instruction gives it back, every operand at every value. -/
def Obligations.DecodeOfEncodeIsIdentity : Prop :=
  ∀ i : Instr, i.wellFormed = true → decodeWord (encode i) = some i

/-- Encoding what a word decodes to gives the word back: no bit of a legal word is dropped. -/
def Obligations.EncodeOfDecodeIsIdentity : Prop :=
  ∀ (op : Word) (i : Instr), decodeWord op = some i → encode i = op

/-- R68: the illegal words, family by family. -/
def Obligations.IllegalWordsAreExactly : Prop :=
  ∀ op : Word, decodeWord op = none ↔
    (opFamily op = 0x0 ∧ op ≠ 0x00E0 ∧ op ≠ 0x00EE) ∨
    (opFamily op = 0x5 ∧ opN op ≠ 0) ∨
    (opFamily op = 0x8 ∧ opN op ∈ [0x8, 0x9, 0xA, 0xB, 0xC, 0xD, (0xF : Nibble)]) ∨
    (opFamily op = 0x9 ∧ opN op ≠ 0) ∨
    (opFamily op = 0xE ∧ opNN op ∉ [0x9E, (0xA1 : Byte)]) ∨
    (opFamily op = 0xF ∧ opNN op ∉ [0x07, 0x0A, 0x15, 0x18, 0x1E, 0x29, 0x33, 0x55, (0x65 : Byte)])

/-- R65: testing every row with its own mask finds the same row as the dispatch key, and the keys are pairwise
distinct. -/
def Obligations.RowMasksAgreeWithDispatch : Prop :=
  (∀ op : Word, opcodeTable.find? (fun r => op &&& r.mask == r.key) = dispatchRow op) ∧
  opcodeTable.Pairwise (fun r r' => r.key ≠ r'.key)

/-- A few words of several families (`d1` = 0, 2, 3, 8, A, D, E, F), written out from R66, and what they
decode to (spec/95_test_vectors.md 2.1). -/
def Obligations.SampleWordsDecode : Prop :=
  decodeWord 0x00E0 = some .cls ∧ decodeWord 0x2ABC = some (.call 0xABC) ∧
  decodeWord 0x3A7F = some (.seByte 0xA 0x7F) ∧ decodeWord 0x8AB5 = some (.subReg 0xA 0xB) ∧
  decodeWord 0xAABC = some (.ldI 0xABC) ∧ decodeWord 0xDAB5 = some (.drw 0xA 0xB 5) ∧
  decodeWord 0xEAA1 = some (.sknp 0xA) ∧ decodeWord 0xFA0A = some (.ldVxK 0xA) ∧
  decodeWord 0xFA55 = some (.storeRegs 0xA) ∧ decodeWord 0x0000 = none ∧ decodeWord 0x8ABF = none

/-- R69: all 16 values of `y` in `SHR` and `SHL` select the same behaviour. -/
def Obligations.ShiftsIgnoreY : Prop :=
  ∀ (x y y' : Reg) (s : State),
    exec (.shr x y) s = exec (.shr x y') s ∧ exec (.shl x y) s = exec (.shl x y') s

/-! ### The step -/

/-- R45: the byte at the lower address is `op[15:8]`; R81: the fetch needs `pc + 1 <= 0xFFF`. -/
def Obligations.FetchIsBigEndian : Prop :=
  ∀ s : State,
    (s.pc.toNat + 1 ≤ 0xFFF → ∃ op : Word, s.fetchWord = some op ∧
      op.extractLsb' 8 8 = s.readByte s.pc.toNat ∧ op.extractLsb' 0 8 = s.readByte (s.pc.toNat + 1)) ∧
    (0xFFF < s.pc.toNat + 1 → s.fetchWord = none)

/-- R82: a `Tick` of a machine that is not halted runs the instruction the bytes at `pc` decode to, with `pc`
advanced by 2 before the handler and nothing else around it. -/
def Obligations.StepRunsDecodedInstruction : Prop :=
  ∀ (s : State) (op : Word) (i : Instr), s.halted = false → s.fetchWord = some op → decodeWord op = some i →
    step s = exec i { s with pc := s.pc + 2 }

/-- R52: a word stored where `pc` points, by whatever operation, is the word the next fetch reads. -/
def Obligations.FetchSeesStoredWord : Prop :=
  ∀ (s : State) (w : Word), s.memory.wf = true → s.pc.toNat + 1 ≤ 0xFFF →
    (s.writeBytes s.pc.toNat [w.extractLsb' 8 8, w.extractLsb' 0 8]).fetchWord = some w

/-- An instruction placed with `withFetchWord` is the one the next step runs, from every state (log 21). -/
def Obligations.PlacedInstructionRuns : Prop :=
  ∀ (s : State) (i : Instr), s.memory.wf = true →
    let p := s.withFetchWord 16 (encode i).toNat
    p.halted = false ∧ step p = exec i { p with pc := p.pc + 2 }

/-- R160, R162, R163, R165, R168: every `Tick` answers a next state; the latch after it holds exactly the record the
rules give; and if that is a fault, nothing but the latch changed, `pc` included. The roll-back of `pc` and the
record's fields are the spec's decision D9 (log 6), the latch D10 (log 7), the unmasked sums D7 (log 5). -/
def Obligations.TickFaultsExactlyAsRuled : Prop :=
  ∀ s : State, ∃ t, step s = .next t ∧ t.fault = tickFault s ∧
    (t.fault ≠ none → t = { s with fault := t.fault })

/-- R85, R166: while halted, `Tick` changes nothing and returns the latched fault (decision D10, log 7). -/
def Obligations.HaltedTickReturnsLatchedFault : Prop :=
  ∀ (font : Config.Font) (s : State) (r : FaultRecord), s.fault = some r →
    step s = .next s ∧ perform font .tick s = (s, .err r)

/-- R157, R167: no operation but `Reset` clears the latch, and `Reset` does (decision D10, log 7). -/
def Obligations.OnlyResetClearsHalt : Prop :=
  ∀ (font : Config.Font) (op : HostOp) (s : State), s.halted = true →
    ((perform font op s).1.halted = false ↔ op = .reset)

/-! ### Whole-machine rules -/

/-- R27: an instruction leaves alone every piece of state the access matrix gives it no write to; for memory, every
byte reads as before. `pc` moves back only when the handler faults (decision D9, log 6). -/
def Obligations.InstructionsWriteOnlyTheirState : Prop :=
  ∀ (i : Instr) (s t : State), exec i s = .next t →
    (∀ r, i.writesReg r = false → t.reg r = s.reg r) ∧
    (i.writesPc = false → handlerFault i s = none → t.pc = s.pc) ∧
    (i.writesI = false → t.I = s.I) ∧
    (i.writesStack = false → t.stack = s.stack ∧ t.sp = s.sp) ∧
    ((∀ x, i ≠ .ldDtVx x) → t.DT = s.DT) ∧ ((∀ x, i ≠ .ldStVx x) → t.ST = s.ST) ∧
    t.key = s.key ∧ (i.writesFb = false → t.fb = s.fb) ∧
    (i.writesMemory = false → ∀ a, t.readByte a = s.readByte a) ∧
    (handlerFault i s = none → t.fault = s.fault)

/-- R12: each of the six flag-writing instructions leaves `VF` at 0 or 1 whatever its operands are, and no other
instruction writes `VF` unless it names it as a destination. That the flag is written last, so that it stands even when
`x = 15`, is decision D6 (log 4); the fault condition of an empty `DRW` is D17 (log 13). -/
def Obligations.FlagWritersLeaveZeroOrOne : Prop :=
  (∀ (i : Instr) (s : State), i.writesFlag = true → handlerFault i s = none →
    ∃ t, exec i s = .next t ∧ (t.reg 15 = 0 ∨ t.reg 15 = 1)) ∧
  (∀ (i : Instr) (s t : State), i.writesFlag = false → i.writesReg 15 = false → exec i s = .next t →
    t.reg 15 = s.reg 15)

/-- R174: no instruction reads `ST`: two machines that differ only in `ST` still differ only in `ST` after a
`Tick`. -/
def Obligations.SoundTimerIsNeverRead : Prop :=
  ∀ (s t : State) (v : Byte), step s = .next t →
    ∃ t', step { s with ST := v } = .next t' ∧ { t' with ST := 0 } = { t with ST := 0 }

/-! ### Control flow -/

/-- R92: `JP nnn`. -/
def Obligations.JumpSetsPc : Prop :=
  ∀ (nnn : Addr12) (s : State), ∃ t, exec (.jp nnn) s = .next t ∧ t.pc.toNat = nnn.toNat ∧
    t = { s with pc := t.pc }

/-- R97: `JP V0,nnn`: the sum is not reduced to 12 bits (decision D7, log 5). -/
def Obligations.JumpV0AddsWithoutMask : Prop :=
  ∀ (nnn : Addr12) (s : State), ∃ t, exec (.jpV0 nnn) s = .next t ∧
    t.pc.toNat = (s.reg 0).toNat + nnn.toNat ∧ t = { s with pc := t.pc }

/-- R93: `CALL nnn` with a free slot pushes the address after the `CALL`; entries are 16 bits wide (decision D18,
log 14). -/
def Obligations.CallPushesReturnAddress : Prop :=
  ∀ (nnn : Addr12) (s : State), s.sp.val ≠ 16 → ∃ t, exec (.call nnn) s = .next t ∧
    t.pc.toNat = nnn.toNat ∧ t.sp.val = s.sp.val + 1 ∧
    (∀ (k : Nat) (h : k < 16), t.stack[k] = if k = s.sp.val then s.pc else s.stack[k]) ∧
    t = { s with pc := t.pc, sp := t.sp, stack := t.stack }

/-- R91: `RET` with a live entry takes the newest one; the slot keeps its value (decision D18, log 14). -/
def Obligations.ReturnPopsNewestAddress : Prop :=
  ∀ s : State, s.sp.val ≠ 0 → ∃ t, exec .ret s = .next t ∧ t.sp.val + 1 = s.sp.val ∧
    (∀ h : t.sp.val < 16, t.pc = s.stack[t.sp.val]) ∧ t = { s with pc := t.pc, sp := t.sp }

/-- R163: `CALL` at `sp = 16` and `RET` at `sp = 0` fault; `pc` is the instruction's address again, and nothing else
but the latch changes (decision D9, log 6). -/
def Obligations.StackFaultsChangeOnlyTheLatch : Prop :=
  (∀ (nnn : Addr12) (s : State), s.sp.val = 16 →
    exec (.call nnn) s = .next { s with
      pc := s.pc - 2, fault := some { kind := .stackOverflow, addr := s.pc - 2, opcode := 0x2#4 ++ nnn } }) ∧
  (∀ s : State, s.sp.val = 0 →
    exec .ret s = .next { s with
      pc := s.pc - 2, fault := some { kind := .stackUnderflow, addr := s.pc - 2, opcode := 0x00EE } })

/-- S10, R91, R93: a `RET` reached from a `CALL`, wherever it stands, resumes after the `CALL`, and the older entries
of the stack are as they were (entries of 16 bits: decision D18, log 14). -/
def Obligations.ReturnResumesAfterCall : Prop :=
  ∀ (nnn : Addr12) (s : State) (p : Word), s.sp.val ≠ 16 →
    ∃ t u, exec (.call nnn) s = .next t ∧ exec .ret { t with pc := p } = .next u ∧
      u = { s with stack := u.stack } ∧
      ∀ (k : Nat) (h : k < 16), k < s.sp.val → u.stack[k] = s.stack[k]

/-- R94, R95: `SE Vx,nn` and `SNE Vx,nn`. -/
def Obligations.SkipsOnImmediate : Prop :=
  ∀ (x : Reg) (nn : Byte) (s : State),
    (∃ t, exec (.seByte x nn) s = .next t ∧ t = { s with pc := t.pc } ∧
      t.pc.toNat = if s.reg x = nn then (s.pc.toNat + 2) % 65536 else s.pc.toNat) ∧
    (∃ t, exec (.sneByte x nn) s = .next t ∧ t = { s with pc := t.pc } ∧
      t.pc.toNat = if s.reg x = nn then s.pc.toNat else (s.pc.toNat + 2) % 65536)

/-- R96, R98: `SE Vx,Vy` and `SNE Vx,Vy`. -/
def Obligations.SkipsOnRegisters : Prop :=
  ∀ (x y : Reg) (s : State),
    (∃ t, exec (.seReg x y) s = .next t ∧ t = { s with pc := t.pc } ∧
      t.pc.toNat = if s.reg x = s.reg y then (s.pc.toNat + 2) % 65536 else s.pc.toNat) ∧
    (∃ t, exec (.sneReg x y) s = .next t ∧ t = { s with pc := t.pc } ∧
      t.pc.toNat = if s.reg x = s.reg y then s.pc.toNat else (s.pc.toNat + 2) % 65536)

/-! ### Loads, arithmetic, logic, shifts, random -/

/-- R101, R103: `LD Vx,nn` and `LD Vx,Vy`. -/
def Obligations.LoadsOfRegister : Prop :=
  ∀ (x y : Reg) (nn : Byte) (s : State),
    (∃ t, exec (.ldByte x nn) s = .next t ∧ t = { s with V := t.V } ∧ t.reg x = nn ∧
      ∀ r, r ≠ x → t.reg r = s.reg r) ∧
    (∃ t, exec (.ldReg x y) s = .next t ∧ t = { s with V := t.V } ∧ t.reg x = s.reg y ∧
      ∀ r, r ≠ x → t.reg r = s.reg r)

/-- R102: `ADD Vx,nn` wraps and writes no flag. -/
def Obligations.AddImmediateWrapsWithoutFlag : Prop :=
  ∀ (x : Reg) (nn : Byte) (s : State), ∃ t, exec (.addByte x nn) s = .next t ∧ t = { s with V := t.V } ∧
    (t.reg x).toNat = ((s.reg x).toNat + nn.toNat) % 256 ∧ ∀ r, r ≠ x → t.reg r = s.reg r

/-- R104, R105, R106: `OR`, `AND`, `XOR` bit by bit, no flag. -/
def Obligations.BitwiseWithoutFlag : Prop :=
  ∀ (x y : Reg) (s : State),
    (∃ t, exec (.orReg x y) s = .next t ∧ t = { s with V := t.V } ∧ (∀ r, r ≠ x → t.reg r = s.reg r) ∧
      ∀ b, (t.reg x).getLsbD b = ((s.reg x).getLsbD b || (s.reg y).getLsbD b)) ∧
    (∃ t, exec (.andReg x y) s = .next t ∧ t = { s with V := t.V } ∧ (∀ r, r ≠ x → t.reg r = s.reg r) ∧
      ∀ b, (t.reg x).getLsbD b = ((s.reg x).getLsbD b && (s.reg y).getLsbD b)) ∧
    (∃ t, exec (.xorReg x y) s = .next t ∧ t = { s with V := t.V } ∧ (∀ r, r ≠ x → t.reg r = s.reg r) ∧
      ∀ b, (t.reg x).getLsbD b = ((s.reg x).getLsbD b ^^ (s.reg y).getLsbD b))

/-- R107: `ADD Vx,Vy`. That `VF` ends as the flag when `x = 15` is the spec's decision D6, that the old values are
the operands is D5 (log 4). -/
def Obligations.AddSetsCarry : Prop :=
  ∀ (x y : Reg) (s : State), ∃ t, exec (.addReg x y) s = .next t ∧ t = { s with V := t.V } ∧
    (t.reg 15).toNat = (if (s.reg x).toNat + (s.reg y).toNat > 255 then 1 else 0) ∧
    (x ≠ 15 → (t.reg x).toNat = ((s.reg x).toNat + (s.reg y).toNat) % 256) ∧
    ∀ r, r ≠ x → r ≠ 15 → t.reg r = s.reg r

/-- R108: `SUB Vx,Vy`; decisions D5, D6 for `x = 15` or `y = 15` (log 4). -/
def Obligations.SubSetsNoBorrow : Prop :=
  ∀ (x y : Reg) (s : State), ∃ t, exec (.subReg x y) s = .next t ∧ t = { s with V := t.V } ∧
    (t.reg 15).toNat = (if (s.reg x).toNat ≥ (s.reg y).toNat then 1 else 0) ∧
    (x ≠ 15 → (t.reg x).toNat = ((s.reg x).toNat + 256 - (s.reg y).toNat) % 256) ∧
    ∀ r, r ≠ x → r ≠ 15 → t.reg r = s.reg r

/-- R110: `SUBN Vx,Vy`; decisions D5, D6 for `x = 15` or `y = 15` (log 4). -/
def Obligations.SubnSetsNoBorrow : Prop :=
  ∀ (x y : Reg) (s : State), ∃ t, exec (.subnReg x y) s = .next t ∧ t = { s with V := t.V } ∧
    (t.reg 15).toNat = (if (s.reg y).toNat ≥ (s.reg x).toNat then 1 else 0) ∧
    (x ≠ 15 → (t.reg x).toNat = ((s.reg y).toNat + 256 - (s.reg x).toNat) % 256) ∧
    ∀ r, r ≠ x → r ≠ 15 → t.reg r = s.reg r

/-- R109: `SHR Vx`; decision D6 for `x = 15` (log 4). -/
def Obligations.ShrShiftsOutBitZero : Prop :=
  ∀ (x y : Reg) (s : State), ∃ t, exec (.shr x y) s = .next t ∧ t = { s with V := t.V } ∧
    (t.reg 15).toNat = (s.reg x).toNat % 2 ∧
    (x ≠ 15 → (t.reg x).toNat = (s.reg x).toNat / 2) ∧ ∀ r, r ≠ x → r ≠ 15 → t.reg r = s.reg r

/-- R111: `SHL Vx`; decision D6 for `x = 15` (log 4). -/
def Obligations.ShlShiftsOutBitSeven : Prop :=
  ∀ (x y : Reg) (s : State), ∃ t, exec (.shl x y) s = .next t ∧ t = { s with V := t.V } ∧
    (t.reg 15).toNat = (s.reg x).toNat / 128 ∧
    (x ≠ 15 → (t.reg x).toNat = (s.reg x).toNat * 2 % 256) ∧ ∀ r, r ≠ x → r ≠ 15 → t.reg r = s.reg r

/-- R112: `RND Vx,nn` writes the draw and `nn`, so only bits of `nn` can be set. The draw is a free value (decision
D13, log 8): the statement holds whatever `Config.randomByte` is. -/
def Obligations.RandomMasksFreeDraw : Prop :=
  ∀ (x : Reg) (nn : Byte) (s : State), ∃ t, exec (.rnd x nn) s = .next t ∧
    t = { s with V := t.V, draws := s.draws + 1 } ∧
    (∀ b, (t.reg x).getLsbD b = ((Config.randomByte s.draws).getLsbD b && nn.getLsbD b)) ∧
    ∀ r, r ≠ x → t.reg r = s.reg r

/-! ### Index register and memory -/

/-- R121: `LD I,nnn`. -/
def Obligations.LoadIndex : Prop :=
  ∀ (nnn : Addr12) (s : State), ∃ t, exec (.ldI nnn) s = .next t ∧ t = { s with I := t.I } ∧
    t.I.toNat = nnn.toNat

/-- R122: `ADD I,Vx`: 16 bits, no flag, no fault above 0xFFF (decision D7, log 5). -/
def Obligations.AddToIndexWrapsAt16Bits : Prop :=
  ∀ (x : Reg) (s : State), ∃ t, exec (.addI x) s = .next t ∧ t = { s with I := t.I } ∧
    t.I.toNat = (s.I.toNat + (s.reg x).toNat) % 65536

/-- R123: `LD F,Vx`: `(Vx * 5) mod 80`, which is 5 times the low nibble. -/
def Obligations.GlyphAddressOfDigit : Prop :=
  ∀ (x : Reg) (s : State), ∃ t, exec (.ldF x) s = .next t ∧ t = { s with I := t.I } ∧
    t.I.toNat = (s.reg x).toNat * 5 % 80 ∧ t.I.toNat = 5 * ((s.reg x).toNat % 16)

/-- R124: `LD B,Vx` in range: three digits at `I`, every other byte as before. The range is computed without wrap
(decision D7, log 5); out of range: OutOfRangeAccessChangesOnlyTheLatch. -/
def Obligations.BcdWritesThreeDigits : Prop :=
  ∀ (x : Reg) (s : State), s.memory.wf = true → s.I.toNat + 2 ≤ 0xFFF → ∃ t, exec (.ldB x) s = .next t ∧
    t = { s with memory := t.memory } ∧
    (t.readByte s.I.toNat).toNat = (s.reg x).toNat / 100 ∧
    (t.readByte (s.I.toNat + 1)).toNat = (s.reg x).toNat / 10 % 10 ∧
    (t.readByte (s.I.toNat + 2)).toNat = (s.reg x).toNat % 10 ∧
    ∀ a, a < s.I.toNat ∨ s.I.toNat + 3 ≤ a → t.readByte a = s.readByte a

/-- R125: `LD [I],Vx` in range: `V0`..`Vx` at `I` upward, every other byte as before, `I` unchanged (decision D16,
log 16). -/
def Obligations.StoreBlockWritesRegisters : Prop :=
  ∀ (x : Reg) (s : State), s.memory.wf = true → s.I.toNat + x.toNat ≤ 0xFFF →
    ∃ t, exec (.storeRegs x) s = .next t ∧
    t = { s with memory := t.memory } ∧
    (∀ r : Reg, r.toNat ≤ x.toNat → t.readByte (s.I.toNat + r.toNat) = s.reg r) ∧
    ∀ a, a < s.I.toNat ∨ s.I.toNat + x.toNat + 1 ≤ a → t.readByte a = s.readByte a

/-- R126: `LD Vx,[I]` in range: `V0`..`Vx` from `I` upward, higher registers and `I` unchanged (decision D16,
log 16). -/
def Obligations.LoadBlockReadsRegisters : Prop :=
  ∀ (x : Reg) (s : State), s.I.toNat + x.toNat ≤ 0xFFF → ∃ t, exec (.loadRegs x) s = .next t ∧
    t = { s with V := t.V } ∧
    (∀ r : Reg, r.toNat ≤ x.toNat → t.reg r = s.readByte (s.I.toNat + r.toNat)) ∧
    ∀ r : Reg, x.toNat < r.toNat → t.reg r = s.reg r

/-- R44, R162: the four memory instructions beyond 0xFFF: `pc` back, the record, and nothing else (decisions D7, D9,
logs 5 and 6). -/
def Obligations.OutOfRangeAccessChangesOnlyTheLatch : Prop :=
  ∀ (i : Instr) (s : State), handlerFault i s = some .memoryOutOfBounds →
    exec i s = .next { s with
      pc := s.pc - 2, fault := some { kind := .memoryOutOfBounds, addr := s.pc - 2, opcode := encode i } }

/-! ### Graphics -/

/-- R131: `CLS`; `VF` is untouched. -/
def Obligations.ClearScreen : Prop :=
  ∀ s : State, ∃ t, exec .cls s = .next t ∧ t = { s with fb := t.fb } ∧ ∀ k < 2048, t.pixel k = false

/-- R132: `DRW` in range: a pixel changes exactly where a set sprite bit lands, and `VF` is 1 exactly when such a
pixel was lit. An empty sprite needs no range (decision D17, log 13); bit 7 is leftmost (decision D4, log 3). -/
def Obligations.DrawTogglesWhereSpriteHits : Prop :=
  ∀ (x y : Reg) (n : Nibble) (s : State), n.toNat = 0 ∨ s.I.toNat + n.toNat - 1 ≤ 0xFFF →
    ∃ t, exec (.drw x y n) s = .next t ∧ t = { s with V := t.V, fb := t.fb } ∧
      (∀ k < 2048, (t.pixel k ≠ s.pixel k ↔ SpriteHits s x y n k)) ∧
      (t.reg 15 = 0 ∨ t.reg 15 = 1) ∧
      (t.reg 15 = 1 ↔ ∃ k < 2048, SpriteHits s x y n k ∧ s.pixel k = true) ∧
      ∀ r, r ≠ 15 → t.reg r = s.reg r

/-- R133 (a): drawing the same sprite again, the registers re-established, restores the framebuffer, and the second
draw reports 1 exactly when the first turned a pixel on. Decisions D4 and D17 as in the statement before
(logs 3, 13). -/
def Obligations.DrawTwiceRestores : Prop :=
  ∀ (x y : Reg) (n : Nibble) (s : State), n.toNat = 0 ∨ s.I.toNat + n.toNat - 1 ≤ 0xFFF →
    ∃ t u, exec (.drw x y n) s = .next t ∧ exec (.drw x y n) { t with V := s.V } = .next u ∧
      u.fb = s.fb ∧ (u.reg 15 = 1 ↔ ∃ k < 2048, SpriteHits s x y n k ∧ s.pixel k = false)

/-! ### Timers and keypad -/

/-- R141, R142: `SKP` and `SKNP`; the key is the low nibble of `Vx` (decision D14, log 10). -/
def Obligations.SkipsOnKey : Prop :=
  ∀ (x : Reg) (s : State) (k : BitVec 4), k.toNat = (s.reg x).toNat % 16 →
    (∃ t, exec (.skp x) s = .next t ∧ t = { s with pc := t.pc } ∧
      t.pc.toNat = if s.keyDown k = true then (s.pc.toNat + 2) % 65536 else s.pc.toNat) ∧
    (∃ t, exec (.sknp x) s = .next t ∧ t = { s with pc := t.pc } ∧
      t.pc.toNat = if s.keyDown k = true then s.pc.toNat else (s.pc.toNat + 2) % 65536)

/-- R143, R145, R146: `LD Vx,DT`, `LD DT,Vx`, `LD ST,Vx`. -/
def Obligations.TimerMoves : Prop :=
  ∀ (x : Reg) (s : State),
    (∃ t, exec (.ldVxDt x) s = .next t ∧ t = { s with V := t.V } ∧ t.reg x = s.DT ∧
      ∀ r, r ≠ x → t.reg r = s.reg r) ∧
    exec (.ldDtVx x) s = .next { s with DT := s.reg x } ∧
    exec (.ldStVx x) s = .next { s with ST := s.reg x }

/-- R144: `LD Vx,K` takes the lowest key that is down, or goes back to its own address. -/
def Obligations.KeyWaitTakesLowestKey : Prop :=
  ∀ (x : Reg) (s : State),
    (∀ k : BitVec 4, s.keyDown k = true → (∀ j : BitVec 4, j.toNat < k.toNat → s.keyDown j = false) →
      ∃ t, exec (.ldVxK x) s = .next t ∧ t = { s with V := t.V } ∧ (t.reg x).toNat = k.toNat ∧
        ∀ r, r ≠ x → t.reg r = s.reg r) ∧
    ((∀ k : BitVec 4, s.keyDown k = false) →
      ∃ t, exec (.ldVxK x) s = .next t ∧ t = { s with pc := t.pc } ∧ t.pc + 2 = s.pc)

/-- R144: a `Tick` of `LD Vx,K` with no key down leaves the whole Machine State as it was. The word `Fx0A` is decision
D1 (log 1). -/
def Obligations.KeyWaitTickChangesNothing : Prop :=
  ∀ (x : Reg) (s : State), s.halted = false → s.fetchWord = some (0xF#4 ++ x ++ 0x0A#8) →
    (∀ k : BitVec 4, s.keyDown k = false) → step s = .next s

/-! ### Host operations and runs -/

/-- R152: `Load` of at most 3584 bytes copies them to 0x200 and writes nothing else, halted or not; that it leaves
the font alone is decision D20 (log 17). -/
def Obligations.LoadCopiesRom : Prop :=
  ∀ (font : Config.Font) (rom : List Byte) (s : State), s.memory.wf = true → rom.length ≤ 3584 →
    ∃ t, perform font (.load rom) s = (t, .ok) ∧ t = { s with memory := t.memory } ∧
      (∀ (k : Nat) (h : k < rom.length), t.readByte (0x200 + k) = rom[k]) ∧
      ∀ a, a < 0x200 ∨ 0x200 + rom.length ≤ a → t.readByte a = s.readByte a

/-- R152, R164: a longer ROM: nothing is copied, the machine halts with `LoadTooLarge` (decision D11, log 17). -/
def Obligations.LoadTooLargeHalts : Prop :=
  ∀ (font : Config.Font) (rom : List Byte) (s : State), 3584 < rom.length →
    perform font (.load rom) s =
      ({ s with fault := some { kind := .loadTooLarge, addr := 0x200, opcode := 0 } },
        .err { kind := .loadTooLarge, addr := 0x200, opcode := 0 })

/-- R154: `KeyEvent` sets one key and nothing else. -/
def Obligations.KeyEventSetsOneKey : Prop :=
  ∀ (font : Config.Font) (index : BitVec 4) (pressed : Bool) (s : State),
    ∃ t, perform font (.keyEvent index pressed) s = (t, .unit) ∧
    t = { s with key := t.key } ∧ t.keyDown index = pressed ∧ ∀ k, k ≠ index → t.keyDown k = s.keyDown k

/-- R155: `Snapshot` returns the 2048 pixels in order and changes no state. -/
def Obligations.SnapshotReturnsPixels : Prop :=
  ∀ (font : Config.Font) (s : State), ∃ l : List Bool,
    perform font .snapshot s = (s, .picture l) ∧ l.length = 2048 ∧
    ∀ (k : Nat) (h : k < l.length), l[k] = s.pixel k

/-- R156: `TickTimers` counts both timers down; a timer at 0 stays there (decision D12, log 9). -/
def Obligations.TickTimersStopAtZero : Prop :=
  ∀ (font : Config.Font) (s : State), ∃ t,
    perform font .tickTimers s = (t, .unit) ∧ t = { s with DT := t.DT, ST := t.ST } ∧
    t.DT.toNat = s.DT.toNat - 1 ∧ t.ST.toNat = s.ST.toNat - 1

/-- R173: after `n` `TickTimers` calls among other operations that do not write `DT`, `DT` is `max(v - n, 0)`: here
the others are key events, snapshots and loads (decision D12, log 9). -/
def Obligations.DelayTimerCountsCalls : Prop :=
  ∀ (font : Config.Font) (ops : List HostOp) (s : State), (∀ op ∈ ops, op ≠ .tick ∧ op ≠ .reset) →
    (performAll font ops s).DT.toNat = s.DT.toNat - ops.count .tickTimers

/-- R186, R92: a program that has ended normally stays so: its `Tick` changes nothing (decision D23, log 22;
the word of `JP` is decision D1, log 1). -/
def Obligations.NormalEndIsFixedPoint : Prop :=
  ∀ s : State, s.EndedNormally → step s = .next s
end

