-- ==== Sys2Proof/Laws/Decode.lean ====
section
/-! SUPPORT. The fields and the dispatch key of a word put together from its parts. -/

namespace Sys2Proof

/-! ### Fields of a word in format A, XI, XYN or XY (R61 to R63) -/

@[simp] theorem opFamily_append (d : Nibble) (r : BitVec 12) : opFamily (d ++ r) = d := by
  apply BitVec.eq_of_getLsbD_eq
  intro i hi
  simp only [opFamily, BitVec.getLsbD_extractLsb', BitVec.getLsbD_append]
  interval_cases i <;> simp

@[simp] theorem opNNN_append (d : Nibble) (nnn : Addr12) : opNNN (d ++ nnn) = nnn := by
  apply BitVec.eq_of_getLsbD_eq
  intro i hi
  simp only [opNNN, BitVec.getLsbD_extractLsb', BitVec.getLsbD_append]
  interval_cases i <;> simp

/-- A word of format XI read as family and the rest. -/
theorem append_assoc_byte (d : Nibble) (x : Reg) (nn : Byte) :
    (d ++ x ++ nn : Word) = (d ++ (x ++ nn : BitVec 12) : Word) := by
  apply BitVec.eq_of_getLsbD_eq
  intro i hi
  simp only [BitVec.getLsbD_append]
  interval_cases i <;> simp

/-- A word of format XY or XYN read as one of format XI. -/
theorem append_assoc_nibbles (d : Nibble) (x y : Reg) (n : Nibble) :
    (d ++ x ++ y ++ n : Word) = (d ++ x ++ (y ++ n : Byte) : Word) := by
  apply BitVec.eq_of_getLsbD_eq
  intro i hi
  simp only [BitVec.getLsbD_append]
  interval_cases i <;> simp

@[simp] theorem opX_byte (d : Nibble) (x : Reg) (nn : Byte) : opX (d ++ x ++ nn) = x := by
  apply BitVec.eq_of_getLsbD_eq
  intro i hi
  simp only [opX, BitVec.getLsbD_extractLsb', BitVec.getLsbD_append]
  interval_cases i <;> simp

@[simp] theorem opNN_byte (d : Nibble) (x : Reg) (nn : Byte) : opNN (d ++ x ++ nn) = nn := by
  apply BitVec.eq_of_getLsbD_eq
  intro i hi
  simp only [opNN, BitVec.getLsbD_extractLsb', BitVec.getLsbD_append]
  interval_cases i <;> simp

@[simp] theorem opX_nibbles (d : Nibble) (x y : Reg) (n : Nibble) : opX (d ++ x ++ y ++ n) = x := by
  rw [append_assoc_nibbles, opX_byte]

@[simp] theorem opY_nibbles (d : Nibble) (x y : Reg) (n : Nibble) : opY (d ++ x ++ y ++ n) = y := by
  apply BitVec.eq_of_getLsbD_eq
  intro i hi
  simp only [opY, BitVec.getLsbD_extractLsb', BitVec.getLsbD_append]
  interval_cases i <;> simp

@[simp] theorem opN_nibbles (d : Nibble) (x y : Reg) (n : Nibble) : opN (d ++ x ++ y ++ n) = n := by
  apply BitVec.eq_of_getLsbD_eq
  intro i hi
  simp only [opN, BitVec.getLsbD_extractLsb', BitVec.getLsbD_append]
  interval_cases i <;> simp

/-! ### The dispatch key under each mask (R64) -/

/-- Mask 0xF000 keeps the family. -/
theorem and_mask_F000 (d : Nibble) (r : BitVec 12) : (d ++ r : Word) &&& 0xF000 = d ++ 0#12 := by
  apply BitVec.eq_of_getLsbD_eq
  intro i hi
  simp only [BitVec.getLsbD_and, BitVec.getLsbD_append]
  interval_cases i <;> simp

/-- Mask 0xF00F keeps the family and the last nibble. -/
theorem and_mask_F00F (d : Nibble) (x y : Reg) (n : Nibble) :
    (d ++ x ++ y ++ n : Word) &&& 0xF00F = d ++ 0#4 ++ 0#4 ++ n := by
  apply BitVec.eq_of_getLsbD_eq
  intro i hi
  simp only [BitVec.getLsbD_and, BitVec.getLsbD_append]
  interval_cases i <;> simp

/-- Mask 0xF0FF keeps the family and the last byte. -/
theorem and_mask_F0FF (d : Nibble) (x : Reg) (nn : Byte) :
    (d ++ x ++ nn : Word) &&& 0xF0FF = d ++ 0#4 ++ nn := by
  apply BitVec.eq_of_getLsbD_eq
  intro i hi
  simp only [BitVec.getLsbD_and, BitVec.getLsbD_append]
  interval_cases i <;> simp

/-- The key of a word of format A. -/
theorem dispatchKey_addr (d : Nibble) (r : BitVec 12) (h : dispatchMask d = 0xF000) :
    dispatchKey (d ++ r) = d ++ 0#12 := by
  rw [dispatchKey, opFamily_append, h, and_mask_F000]

/-- The key of a word of format XI. -/
theorem dispatchKey_imm (d : Nibble) (x : Reg) (nn : Byte) (h : dispatchMask d = 0xF000) :
    dispatchKey (d ++ x ++ nn) = d ++ 0#12 := by
  rw [append_assoc_byte]; exact dispatchKey_addr d _ h

/-- The key of a word of format XYN. -/
theorem dispatchKey_sprite (d : Nibble) (x y : Reg) (n : Nibble) (h : dispatchMask d = 0xF000) :
    dispatchKey (d ++ x ++ y ++ n) = d ++ 0#12 := by
  rw [append_assoc_nibbles]; exact dispatchKey_imm d x _ h

/-- The key of a word of format XY. -/
theorem dispatchKey_regs (d : Nibble) (x y : Reg) (n : Nibble) (h : dispatchMask d = 0xF00F) :
    dispatchKey (d ++ x ++ y ++ n) = d ++ 0#4 ++ 0#4 ++ n := by
  have hf : opFamily (d ++ x ++ y ++ n) = d := by
    rw [append_assoc_nibbles, append_assoc_byte]; exact opFamily_append d _
  rw [dispatchKey, hf, h, and_mask_F00F]

/-- The key of a word of format X. -/
theorem dispatchKey_reg (d : Nibble) (x : Reg) (nn : Byte) (h : dispatchMask d = 0xF0FF) :
    dispatchKey (d ++ x ++ nn) = d ++ 0#4 ++ nn := by
  have hf : opFamily (d ++ x ++ nn) = d := by
    rw [append_assoc_byte]; exact opFamily_append d _
  rw [dispatchKey, hf, h, and_mask_F0FF]

end Sys2Proof
end

