-- ==== Sys2Proof/Laws/State.lean ====
section
/-! SUPPORT. One lemma per field per update of State, each by rfl, so that no proof unfolds a record update. -/

namespace Sys2Proof.Machine

variable (s : State)

/-! `State.setReg` -/

@[simp] theorem State.memory_setReg (x : Reg) (b : Byte) : (s.setReg x b).memory = s.memory := rfl
@[simp] theorem State.pc_setReg (x : Reg) (b : Byte) : (s.setReg x b).pc = s.pc := rfl
@[simp] theorem State.V_setReg (x : Reg) (b : Byte) : (s.setReg x b).V = s.V.set x.toNat b x.isLt := rfl
@[simp] theorem State.I_setReg (x : Reg) (b : Byte) : (s.setReg x b).I = s.I := rfl
@[simp] theorem State.stack_setReg (x : Reg) (b : Byte) : (s.setReg x b).stack = s.stack := rfl
@[simp] theorem State.sp_setReg (x : Reg) (b : Byte) : (s.setReg x b).sp = s.sp := rfl
@[simp] theorem State.DT_setReg (x : Reg) (b : Byte) : (s.setReg x b).DT = s.DT := rfl
@[simp] theorem State.ST_setReg (x : Reg) (b : Byte) : (s.setReg x b).ST = s.ST := rfl
@[simp] theorem State.key_setReg (x : Reg) (b : Byte) : (s.setReg x b).key = s.key := rfl
@[simp] theorem State.fb_setReg (x : Reg) (b : Byte) : (s.setReg x b).fb = s.fb := rfl
@[simp] theorem State.fault_setReg (x : Reg) (b : Byte) : (s.setReg x b).fault = s.fault := rfl
@[simp] theorem State.draws_setReg (x : Reg) (b : Byte) : (s.setReg x b).draws = s.draws := rfl

/-! `State.setPc` -/

@[simp] theorem State.memory_setPc (a : Word) : (s.setPc a).memory = s.memory := rfl
@[simp] theorem State.pc_setPc (a : Word) : (s.setPc a).pc = a := rfl
@[simp] theorem State.V_setPc (a : Word) : (s.setPc a).V = s.V := rfl
@[simp] theorem State.I_setPc (a : Word) : (s.setPc a).I = s.I := rfl
@[simp] theorem State.stack_setPc (a : Word) : (s.setPc a).stack = s.stack := rfl
@[simp] theorem State.sp_setPc (a : Word) : (s.setPc a).sp = s.sp := rfl
@[simp] theorem State.DT_setPc (a : Word) : (s.setPc a).DT = s.DT := rfl
@[simp] theorem State.ST_setPc (a : Word) : (s.setPc a).ST = s.ST := rfl
@[simp] theorem State.key_setPc (a : Word) : (s.setPc a).key = s.key := rfl
@[simp] theorem State.fb_setPc (a : Word) : (s.setPc a).fb = s.fb := rfl
@[simp] theorem State.fault_setPc (a : Word) : (s.setPc a).fault = s.fault := rfl
@[simp] theorem State.draws_setPc (a : Word) : (s.setPc a).draws = s.draws := rfl

/-! `State.setI` -/

@[simp] theorem State.memory_setI (a : Word) : (s.setI a).memory = s.memory := rfl
@[simp] theorem State.pc_setI (a : Word) : (s.setI a).pc = s.pc := rfl
@[simp] theorem State.V_setI (a : Word) : (s.setI a).V = s.V := rfl
@[simp] theorem State.I_setI (a : Word) : (s.setI a).I = a := rfl
@[simp] theorem State.stack_setI (a : Word) : (s.setI a).stack = s.stack := rfl
@[simp] theorem State.sp_setI (a : Word) : (s.setI a).sp = s.sp := rfl
@[simp] theorem State.DT_setI (a : Word) : (s.setI a).DT = s.DT := rfl
@[simp] theorem State.ST_setI (a : Word) : (s.setI a).ST = s.ST := rfl
@[simp] theorem State.key_setI (a : Word) : (s.setI a).key = s.key := rfl
@[simp] theorem State.fb_setI (a : Word) : (s.setI a).fb = s.fb := rfl
@[simp] theorem State.fault_setI (a : Word) : (s.setI a).fault = s.fault := rfl
@[simp] theorem State.draws_setI (a : Word) : (s.setI a).draws = s.draws := rfl

/-! `State.setDT` -/

@[simp] theorem State.memory_setDT (b : Byte) : (s.setDT b).memory = s.memory := rfl
@[simp] theorem State.pc_setDT (b : Byte) : (s.setDT b).pc = s.pc := rfl
@[simp] theorem State.V_setDT (b : Byte) : (s.setDT b).V = s.V := rfl
@[simp] theorem State.I_setDT (b : Byte) : (s.setDT b).I = s.I := rfl
@[simp] theorem State.stack_setDT (b : Byte) : (s.setDT b).stack = s.stack := rfl
@[simp] theorem State.sp_setDT (b : Byte) : (s.setDT b).sp = s.sp := rfl
@[simp] theorem State.DT_setDT (b : Byte) : (s.setDT b).DT = b := rfl
@[simp] theorem State.ST_setDT (b : Byte) : (s.setDT b).ST = s.ST := rfl
@[simp] theorem State.key_setDT (b : Byte) : (s.setDT b).key = s.key := rfl
@[simp] theorem State.fb_setDT (b : Byte) : (s.setDT b).fb = s.fb := rfl
@[simp] theorem State.fault_setDT (b : Byte) : (s.setDT b).fault = s.fault := rfl
@[simp] theorem State.draws_setDT (b : Byte) : (s.setDT b).draws = s.draws := rfl

/-! `State.setST` -/

@[simp] theorem State.memory_setST (b : Byte) : (s.setST b).memory = s.memory := rfl
@[simp] theorem State.pc_setST (b : Byte) : (s.setST b).pc = s.pc := rfl
@[simp] theorem State.V_setST (b : Byte) : (s.setST b).V = s.V := rfl
@[simp] theorem State.I_setST (b : Byte) : (s.setST b).I = s.I := rfl
@[simp] theorem State.stack_setST (b : Byte) : (s.setST b).stack = s.stack := rfl
@[simp] theorem State.sp_setST (b : Byte) : (s.setST b).sp = s.sp := rfl
@[simp] theorem State.DT_setST (b : Byte) : (s.setST b).DT = s.DT := rfl
@[simp] theorem State.ST_setST (b : Byte) : (s.setST b).ST = b := rfl
@[simp] theorem State.key_setST (b : Byte) : (s.setST b).key = s.key := rfl
@[simp] theorem State.fb_setST (b : Byte) : (s.setST b).fb = s.fb := rfl
@[simp] theorem State.fault_setST (b : Byte) : (s.setST b).fault = s.fault := rfl
@[simp] theorem State.draws_setST (b : Byte) : (s.setST b).draws = s.draws := rfl

/-! `State.setKey` -/

@[simp] theorem State.memory_setKey (k : BitVec 4) (p : Bool) : (s.setKey k p).memory = s.memory := rfl
@[simp] theorem State.pc_setKey (k : BitVec 4) (p : Bool) : (s.setKey k p).pc = s.pc := rfl
@[simp] theorem State.V_setKey (k : BitVec 4) (p : Bool) : (s.setKey k p).V = s.V := rfl
@[simp] theorem State.I_setKey (k : BitVec 4) (p : Bool) : (s.setKey k p).I = s.I := rfl
@[simp] theorem State.stack_setKey (k : BitVec 4) (p : Bool) : (s.setKey k p).stack = s.stack := rfl
@[simp] theorem State.sp_setKey (k : BitVec 4) (p : Bool) : (s.setKey k p).sp = s.sp := rfl
@[simp] theorem State.DT_setKey (k : BitVec 4) (p : Bool) : (s.setKey k p).DT = s.DT := rfl
@[simp] theorem State.ST_setKey (k : BitVec 4) (p : Bool) : (s.setKey k p).ST = s.ST := rfl
@[simp] theorem State.key_setKey (k : BitVec 4) (p : Bool) : (s.setKey k p).key = s.key.set k.toNat p k.isLt := rfl
@[simp] theorem State.fb_setKey (k : BitVec 4) (p : Bool) : (s.setKey k p).fb = s.fb := rfl
@[simp] theorem State.fault_setKey (k : BitVec 4) (p : Bool) : (s.setKey k p).fault = s.fault := rfl
@[simp] theorem State.draws_setKey (k : BitVec 4) (p : Bool) : (s.setKey k p).draws = s.draws := rfl

/-! `State.setFb` -/

@[simp] theorem State.memory_setFb (fb : Framebuffer) : (s.setFb fb).memory = s.memory := rfl
@[simp] theorem State.pc_setFb (fb : Framebuffer) : (s.setFb fb).pc = s.pc := rfl
@[simp] theorem State.V_setFb (fb : Framebuffer) : (s.setFb fb).V = s.V := rfl
@[simp] theorem State.I_setFb (fb : Framebuffer) : (s.setFb fb).I = s.I := rfl
@[simp] theorem State.stack_setFb (fb : Framebuffer) : (s.setFb fb).stack = s.stack := rfl
@[simp] theorem State.sp_setFb (fb : Framebuffer) : (s.setFb fb).sp = s.sp := rfl
@[simp] theorem State.DT_setFb (fb : Framebuffer) : (s.setFb fb).DT = s.DT := rfl
@[simp] theorem State.ST_setFb (fb : Framebuffer) : (s.setFb fb).ST = s.ST := rfl
@[simp] theorem State.key_setFb (fb : Framebuffer) : (s.setFb fb).key = s.key := rfl
@[simp] theorem State.fb_setFb (fb : Framebuffer) : (s.setFb fb).fb = fb := rfl
@[simp] theorem State.fault_setFb (fb : Framebuffer) : (s.setFb fb).fault = s.fault := rfl
@[simp] theorem State.draws_setFb (fb : Framebuffer) : (s.setFb fb).draws = s.draws := rfl

/-! `State.writeBytes` -/

@[simp] theorem State.memory_writeBytes (a : Nat) (bs : List Byte) : (s.writeBytes a bs).memory = s.memory.writeList a bs := rfl
@[simp] theorem State.pc_writeBytes (a : Nat) (bs : List Byte) : (s.writeBytes a bs).pc = s.pc := rfl
@[simp] theorem State.V_writeBytes (a : Nat) (bs : List Byte) : (s.writeBytes a bs).V = s.V := rfl
@[simp] theorem State.I_writeBytes (a : Nat) (bs : List Byte) : (s.writeBytes a bs).I = s.I := rfl
@[simp] theorem State.stack_writeBytes (a : Nat) (bs : List Byte) : (s.writeBytes a bs).stack = s.stack := rfl
@[simp] theorem State.sp_writeBytes (a : Nat) (bs : List Byte) : (s.writeBytes a bs).sp = s.sp := rfl
@[simp] theorem State.DT_writeBytes (a : Nat) (bs : List Byte) : (s.writeBytes a bs).DT = s.DT := rfl
@[simp] theorem State.ST_writeBytes (a : Nat) (bs : List Byte) : (s.writeBytes a bs).ST = s.ST := rfl
@[simp] theorem State.key_writeBytes (a : Nat) (bs : List Byte) : (s.writeBytes a bs).key = s.key := rfl
@[simp] theorem State.fb_writeBytes (a : Nat) (bs : List Byte) : (s.writeBytes a bs).fb = s.fb := rfl
@[simp] theorem State.fault_writeBytes (a : Nat) (bs : List Byte) : (s.writeBytes a bs).fault = s.fault := rfl
@[simp] theorem State.draws_writeBytes (a : Nat) (bs : List Byte) : (s.writeBytes a bs).draws = s.draws := rfl

/-! `State.raise` -/

@[simp] theorem State.memory_raise (k : FaultKind) (a op : Word) : (s.raise k a op).memory = s.memory := rfl
@[simp] theorem State.pc_raise (k : FaultKind) (a op : Word) : (s.raise k a op).pc = s.pc := rfl
@[simp] theorem State.V_raise (k : FaultKind) (a op : Word) : (s.raise k a op).V = s.V := rfl
@[simp] theorem State.I_raise (k : FaultKind) (a op : Word) : (s.raise k a op).I = s.I := rfl
@[simp] theorem State.stack_raise (k : FaultKind) (a op : Word) : (s.raise k a op).stack = s.stack := rfl
@[simp] theorem State.sp_raise (k : FaultKind) (a op : Word) : (s.raise k a op).sp = s.sp := rfl
@[simp] theorem State.DT_raise (k : FaultKind) (a op : Word) : (s.raise k a op).DT = s.DT := rfl
@[simp] theorem State.ST_raise (k : FaultKind) (a op : Word) : (s.raise k a op).ST = s.ST := rfl
@[simp] theorem State.key_raise (k : FaultKind) (a op : Word) : (s.raise k a op).key = s.key := rfl
@[simp] theorem State.fb_raise (k : FaultKind) (a op : Word) : (s.raise k a op).fb = s.fb := rfl
@[simp] theorem State.fault_raise (k : FaultKind) (a op : Word) : (s.raise k a op).fault = some { kind := k, addr := a, opcode := op } := rfl
@[simp] theorem State.draws_raise (k : FaultKind) (a op : Word) : (s.raise k a op).draws = s.draws := rfl

/-! `State.draw` -/

@[simp] theorem State.draw_fst : s.draw.1 = Config.randomByte s.draws := rfl
@[simp] theorem State.memory_draw : s.draw.2.memory = s.memory := rfl
@[simp] theorem State.pc_draw : s.draw.2.pc = s.pc := rfl
@[simp] theorem State.V_draw : s.draw.2.V = s.V := rfl
@[simp] theorem State.I_draw : s.draw.2.I = s.I := rfl
@[simp] theorem State.stack_draw : s.draw.2.stack = s.stack := rfl
@[simp] theorem State.sp_draw : s.draw.2.sp = s.sp := rfl
@[simp] theorem State.DT_draw : s.draw.2.DT = s.DT := rfl
@[simp] theorem State.ST_draw : s.draw.2.ST = s.ST := rfl
@[simp] theorem State.key_draw : s.draw.2.key = s.key := rfl
@[simp] theorem State.fb_draw : s.draw.2.fb = s.fb := rfl
@[simp] theorem State.fault_draw : s.draw.2.fault = s.fault := rfl
@[simp] theorem State.draws_draw : s.draw.2.draws = s.draws + 1 := rfl

/-! `State.powerOn` -/

@[simp] theorem State.pc_powerOn (font : Config.Font) : (State.powerOn font).pc = State.reset.pc := rfl
@[simp] theorem State.V_powerOn (font : Config.Font) : (State.powerOn font).V = State.reset.V := rfl
@[simp] theorem State.I_powerOn (font : Config.Font) : (State.powerOn font).I = State.reset.I := rfl
@[simp] theorem State.stack_powerOn (font : Config.Font) : (State.powerOn font).stack = State.reset.stack := rfl
@[simp] theorem State.sp_powerOn (font : Config.Font) : (State.powerOn font).sp = State.reset.sp := rfl
@[simp] theorem State.DT_powerOn (font : Config.Font) : (State.powerOn font).DT = State.reset.DT := rfl
@[simp] theorem State.ST_powerOn (font : Config.Font) : (State.powerOn font).ST = State.reset.ST := rfl
@[simp] theorem State.key_powerOn (font : Config.Font) : (State.powerOn font).key = State.reset.key := rfl
@[simp] theorem State.fb_powerOn (font : Config.Font) : (State.powerOn font).fb = State.reset.fb := rfl
@[simp] theorem State.fault_powerOn (font : Config.Font) : (State.powerOn font).fault = State.reset.fault := rfl
@[simp] theorem State.draws_powerOn (font : Config.Font) : (State.powerOn font).draws = State.reset.draws := rfl

/-! `State.resetMachine` -/

@[simp] theorem State.memory_resetMachine (font : Config.Font) : (s.resetMachine font).memory = (State.powerOn font).memory := rfl
@[simp] theorem State.pc_resetMachine (font : Config.Font) : (s.resetMachine font).pc = State.reset.pc := rfl
@[simp] theorem State.V_resetMachine (font : Config.Font) : (s.resetMachine font).V = State.reset.V := rfl
@[simp] theorem State.I_resetMachine (font : Config.Font) : (s.resetMachine font).I = State.reset.I := rfl
@[simp] theorem State.stack_resetMachine (font : Config.Font) : (s.resetMachine font).stack = State.reset.stack := rfl
@[simp] theorem State.sp_resetMachine (font : Config.Font) : (s.resetMachine font).sp = State.reset.sp := rfl
@[simp] theorem State.DT_resetMachine (font : Config.Font) : (s.resetMachine font).DT = State.reset.DT := rfl
@[simp] theorem State.ST_resetMachine (font : Config.Font) : (s.resetMachine font).ST = State.reset.ST := rfl
@[simp] theorem State.key_resetMachine (font : Config.Font) : (s.resetMachine font).key = State.reset.key := rfl
@[simp] theorem State.fb_resetMachine (font : Config.Font) : (s.resetMachine font).fb = State.reset.fb := rfl
@[simp] theorem State.fault_resetMachine (font : Config.Font) : (s.resetMachine font).fault = State.reset.fault := rfl
@[simp] theorem State.draws_resetMachine (font : Config.Font) : (s.resetMachine font).draws = s.draws := rfl

/-! Accessors through the updates. -/

@[simp] theorem State.reg_setReg_self (x : Reg) (b : Byte) : (s.setReg x b).reg x = b := by
  simp [State.reg, State.setReg]

theorem State.reg_setReg_ne {x r : Reg} (h : r ≠ x) (b : Byte) : (s.setReg x b).reg r = s.reg r := by
  have hn : x.toNat ≠ r.toNat := fun e => h (BitVec.eq_of_toNat_eq e).symm
  simp [State.reg, State.setReg, hn]

/-- Reading any register after writing one. -/
theorem State.reg_setReg (x r : Reg) (b : Byte) : (s.setReg x b).reg r = if r = x then b else s.reg r := by
  by_cases h : r = x
  · subst h; simp
  · simp [h, State.reg_setReg_ne s h]

@[simp] theorem State.reg_setPc (a : Word) (r : Reg) : (s.setPc a).reg r = s.reg r := rfl
@[simp] theorem State.reg_setFb (fb : Framebuffer) (r : Reg) : (s.setFb fb).reg r = s.reg r := rfl
@[simp] theorem State.reg_draw (r : Reg) : s.draw.2.reg r = s.reg r := rfl

/-- A register write leaves every other field alone. -/
theorem State.setReg_frame (x : Reg) (b : Byte) : s.setReg x b = { s with V := (s.setReg x b).V } := rfl

/-- A result and flag write leave every field but `V` alone. -/
theorem State.setRegFlag_frame (x : Reg) (b : Byte) (f : Bool) :
    s.setRegFlag x b f = { s with V := (s.setRegFlag x b f).V } := rfl

/-- The flag is what `VF` holds after a result and flag write, whatever the destination is (R87). -/
@[simp] theorem State.reg_setRegFlag_flag (x : Reg) (b : Byte) (f : Bool) :
    (s.setRegFlag x b f).reg 15 = flagByte f := by
  rw [State.setRegFlag, State.setFlag, State.reg_setReg_self]

/-- The destination holds the result unless it is `VF` (R87). -/
theorem State.reg_setRegFlag_result {x : Reg} (h : x ≠ 15) (b : Byte) (f : Bool) :
    (s.setRegFlag x b f).reg x = b := by
  rw [State.setRegFlag, State.setFlag, State.reg_setReg_ne _ h, State.reg_setReg_self]

/-- Every other register is unchanged. -/
theorem State.reg_setRegFlag_ne {x r : Reg} (h : r ≠ x) (hf : r ≠ 15) (b : Byte) (f : Bool) :
    (s.setRegFlag x b f).reg r = s.reg r := by
  rw [State.setRegFlag, State.setFlag, State.reg_setReg_ne _ hf, State.reg_setReg_ne _ h]

@[simp] theorem State.keyDown_setKey_self (k : BitVec 4) (p : Bool) : (s.setKey k p).keyDown k = p := by
  simp [State.keyDown, State.setKey]

theorem State.keyDown_setKey_ne {k j : BitVec 4} (h : j ≠ k) (p : Bool) :
    (s.setKey k p).keyDown j = s.keyDown j := by
  have hn : k.toNat ≠ j.toNat := fun e => h (BitVec.eq_of_toNat_eq e).symm
  simp [State.keyDown, State.setKey, hn]

/-- A flag byte is 0 or 1 (R12). -/
theorem flagByte_cases (f : Bool) : flagByte f = 0 ∨ flagByte f = 1 := by
  cases f <;> simp [flagByte]

end Sys2Proof.Machine
end

