-- ==== Sys2Proof/Laws/Memory.lean ====
section
/-! SUPPORT. Memory: a read after a write, and the canonical form, which every memory operation keeps. -/

namespace Sys2Proof.Machine

/-- Raising the lower bound of a canonical memory's addresses. -/
theorem Memory.wfFrom_mono {m : Memory} {lo lo' : Nat} (h : lo' ≤ lo) (hm : m.wfFrom lo = true) :
    m.wfFrom lo' = true := by
  cases m with
  | nil => rfl
  | cons c rest =>
    obtain ⟨a, b⟩ := c
    simp only [Memory.wfFrom, Bool.and_eq_true, decide_eq_true_eq] at hm ⊢
    exact ⟨⟨⟨by omega, hm.1.1.2⟩, hm.1.2⟩, hm.2⟩

/-- Below the first listed address a memory reads as it did at reset. -/
theorem Memory.read_below {m : Memory} {lo a : Nat} (hm : m.wfFrom lo = true) (h : a < lo) :
    m.read a = initialByte a := by
  induction m generalizing lo with
  | nil => rfl
  | cons c rest ih =>
    obtain ⟨a', b⟩ := c
    simp only [Memory.wfFrom, Bool.and_eq_true, decide_eq_true_eq] at hm
    have hne : a ≠ a' := by omega
    simp only [Memory.read, hne, if_false]
    exact ih hm.2 (by omega)

/-- A write keeps the canonical form. -/
theorem Memory.wfFrom_write {m : Memory} {lo a : Nat} (b : Byte) (hm : m.wfFrom lo = true)
    (hlo : lo ≤ a) (ha : a ≤ 0xFFF) : (m.write a b).wfFrom lo = true := by
  induction m generalizing lo with
  | nil =>
    simp only [Memory.write]
    split <;> simp_all [Memory.wfFrom]
  | cons c rest ih =>
    obtain ⟨a', b'⟩ := c
    have hm' := hm
    simp only [Memory.wfFrom, Bool.and_eq_true, decide_eq_true_eq] at hm
    simp only [Memory.write]
    split
    · split
      · exact hm'
      · next hlt hb =>
        simp only [Memory.wfFrom, Bool.and_eq_true, decide_eq_true_eq]
        exact ⟨⟨⟨hlo, ha⟩, hb⟩, ⟨⟨by omega, hm.1.1.2⟩, hm.1.2⟩, hm.2⟩
    · split
      · next heq =>
        split
        · exact Memory.wfFrom_mono (by omega) hm.2
        · next hb =>
          simp only [Memory.wfFrom, Bool.and_eq_true, decide_eq_true_eq]
          exact ⟨⟨⟨hlo, ha⟩, hb⟩, heq ▸ hm.2⟩
      · next hlt heq =>
        simp only [Memory.wfFrom, Bool.and_eq_true, decide_eq_true_eq]
        exact ⟨hm.1, ih hm.2 (by omega)⟩

/-- A write keeps the canonical form. -/
theorem Memory.wf_write {m : Memory} {a : Nat} (b : Byte) (hm : m.wf = true) (ha : a ≤ 0xFFF) :
    (m.write a b).wf = true :=
  Memory.wfFrom_write b hm (Nat.zero_le _) ha

/-- A block write inside memory keeps the canonical form. -/
theorem Memory.wf_writeList {m : Memory} {a : Nat} (bs : List Byte) (hm : m.wf = true)
    (ha : a + bs.length ≤ 4096) : (m.writeList a bs).wf = true := by
  induction bs generalizing m a with
  | nil => exact hm
  | cons b bs ih =>
    simp only [List.length_cons] at ha
    exact ih (Memory.wf_write b hm (by omega)) (by omega)

/-- The memory after reset is canonical. -/
theorem Memory.wf_reset : State.reset.memory.wf = true := rfl

/-- Reading any address after a write to a canonical memory. -/
theorem Memory.read_write_from {m : Memory} {lo : Nat} (a c : Nat) (b : Byte) (hm : m.wfFrom lo = true) :
    (m.write a b).read c = if c = a then b else m.read c := by
  induction m generalizing lo with
  | nil =>
    simp only [Memory.write]
    split
    · next hb => split <;> simp_all [Memory.read]
    · simp [Memory.read]
  | cons d rest ih =>
    obtain ⟨a', b'⟩ := d
    have hm' := hm
    simp only [Memory.wfFrom, Bool.and_eq_true, decide_eq_true_eq] at hm
    simp only [Memory.write]
    split
    · split
      · next hlt hb =>
        split
        · next hc =>
          have hne : c ≠ a' := by omega
          simp only [Memory.read, hne, if_false]
          rw [Memory.read_below hm.2 (by omega), hc, hb]
        · rfl
      · simp only [Memory.read]
    · split
      · next heq =>
        split
        · next hb =>
          split
          · next hc => rw [Memory.read_below hm.2 (by omega), hc, hb]
          · next hc =>
            have hne : c ≠ a' := by omega
            simp [Memory.read, hne]
        · next hb =>
          subst heq
          simp only [Memory.read]
          split <;> rfl
      · next hlt heq =>
        simp only [Memory.read, ih hm.2]
        split
        · next h =>
          have : c ≠ a := by omega
          simp [this]
        · rfl

/-- The byte written is read back, and every other address reads as before. -/
theorem Memory.read_write {m : Memory} (a c : Nat) (b : Byte) (hm : m.wf = true) :
    (m.write a b).read c = if c = a then b else m.read c :=
  Memory.read_write_from a c b hm

/-- Reading any address after a block write: inside the block the byte of the list, outside it the old byte. -/
theorem Memory.read_writeList {m : Memory} {a : Nat} (c : Nat) (bs : List Byte) (hm : m.wf = true)
    (ha : a + bs.length ≤ 4096) :
    (m.writeList a bs).read c = if h : a ≤ c ∧ c < a + bs.length then bs[c - a]'(by omega) else m.read c := by
  induction bs generalizing m a with
  | nil =>
    have : ¬ (a ≤ c ∧ c < a + ([] : List Byte).length) := by simp
    simp only [Memory.writeList, this, dif_neg, not_false_iff]
  | cons b bs ih =>
    simp only [List.length_cons] at ha
    simp only [Memory.writeList, List.length_cons]
    rw [ih (Memory.wf_write b hm (by omega)) (by omega), Memory.read_write a c b hm]
    by_cases h1 : a + 1 ≤ c ∧ c < a + 1 + bs.length
    · have h2 : a ≤ c ∧ c < a + (bs.length + 1) := by omega
      have h3 : c - a = c - (a + 1) + 1 := by omega
      rw [dif_pos h1, dif_pos h2]
      simp only [h3, List.getElem_cons_succ]
    · rw [dif_neg h1]
      by_cases hc : c = a
      · subst hc
        have h2 : c ≤ c ∧ c < c + (bs.length + 1) := by omega
        rw [if_pos rfl, dif_pos h2]
        simp
      · have h2 : ¬ (a ≤ c ∧ c < a + (bs.length + 1)) := by omega
        rw [if_neg hc, dif_neg h2]

/-- A block write leaves every address outside the block alone. -/
theorem Memory.read_writeList_outside {m : Memory} {a c : Nat} (bs : List Byte) (hm : m.wf = true)
    (ha : a + bs.length ≤ 4096) (hc : c < a ∨ a + bs.length ≤ c) :
    (m.writeList a bs).read c = m.read c := by
  rw [Memory.read_writeList c bs hm ha, dif_neg (by omega)]

/-- A block write puts byte `k` of the list at address `a + k`. -/
theorem Memory.read_writeList_inside {m : Memory} {a : Nat} (bs : List Byte) (hm : m.wf = true)
    (ha : a + bs.length ≤ 4096) (k : Nat) (hk : k < bs.length) :
    (m.writeList a bs).read (a + k) = bs[k] := by
  rw [Memory.read_writeList (a + k) bs hm ha, dif_pos (by omega)]
  simp

@[simp] theorem State.readByte_writeBytes (s : State) (a c : Nat) (bs : List Byte) :
    (s.writeBytes a bs).readByte c = (s.memory.writeList a bs).read c := rfl

/-- An access of `n` bytes at `a` is in bounds exactly when it is empty or ends at 0xFFF or below (R44). -/
theorem accessOk_iff (a n : Nat) : accessOk a n = true ↔ n = 0 ∨ a + n ≤ 4096 := by
  simp only [accessOk, Bool.or_eq_true, beq_iff_eq, decide_eq_true_eq]
  omega

/-- A non-empty access in bounds ends inside memory. -/
theorem accessOk_pos {a n : Nat} (hn : 0 < n) : accessOk a n = true ↔ a + n ≤ 4096 := by
  rw [accessOk_iff]; omega

/-! ### Power-on with any `FONT` (R6, R26) -/

/-- `State.reset` is power-on with the default `FONT`. -/
theorem State.powerOn_defaultFont : State.powerOn defaultFont = State.reset := by decide

/-- The memory at power-on is canonical, whatever `FONT` is. -/
theorem Memory.wf_powerOn (font : Config.Font) : (State.powerOn font).memory.wf = true :=
  Memory.wf_writeList _ Memory.wf_reset (by simp)

/-- Memory at power-on: `FONT[a]` at 0 to 79, 0 above. -/
theorem State.readByte_powerOn (font : Config.Font) (a : Nat) :
    (State.powerOn font).readByte a = if h : a < 80 then font[a] else 0 := by
  refine (Memory.read_writeList a font.toList Memory.wf_reset (by simp)).trans ?_
  by_cases h : a < 80
  · have : 0 ≤ a ∧ a < 0 + font.toList.length := by simpa using h
    rw [dif_pos this, dif_pos h]
    simp
  · have : ¬ (0 ≤ a ∧ a < 0 + font.toList.length) := by simpa using h
    rw [dif_neg this, dif_neg h]
    exact if_neg h

end Sys2Proof.Machine
end

