-- ==== Sys2Proof/Laws/Operations.lean ====
section
/-! SUPPORT. What each shared operation does, said once: the provers cite these and do not unfold the operation. -/

namespace Sys2Proof.Machine

/-! ### Skips (R90) -/

theorem State.skipIf_true (s : State) : s.skipIf true = s.setPc (s.pc + 2) := rfl
theorem State.skipIf_false (s : State) : s.skipIf false = s := rfl

/-- A skip changes `pc` only. -/
theorem State.skipIf_frame (s : State) (c : Bool) : s.skipIf c = { s with pc := (s.skipIf c).pc } := by
  cases c <;> rfl

/-- Where a skip leaves `pc`. -/
theorem State.skipIf_pc (s : State) (c : Bool) : (s.skipIf c).pc = if c then s.pc + 2 else s.pc := by
  cases c <;> rfl

/-! ### Stack (R16, R17) -/

/-- A push onto a stack that is not full. -/
theorem State.push_some (s : State) (v : Word) (h : s.sp.val < 16) :
    s.push v = some { s with stack := s.stack.set s.sp.val v h, sp := ⟨s.sp.val + 1, by omega⟩ } := by
  have hne : ¬ s.sp.val = Config.stackDepth := by
    have : Config.stackDepth = 16 := rfl
    omega
  simp [State.push, hne]

/-- A push onto a full stack. -/
theorem State.push_none (s : State) (v : Word) (h : s.sp.val = 16) : s.push v = none := by
  have he : s.sp.val = Config.stackDepth := h
  simp [State.push, he]

/-- A pop from a stack that is not empty. -/
theorem State.pop_some (s : State) (h : 0 < s.sp.val) :
    s.pop = some (s.stack[s.sp.val - 1]'(by have := s.sp.isLt; omega),
      { s with sp := ⟨s.sp.val - 1, by have := s.sp.isLt; omega⟩ }) := by
  have hne : ¬ s.sp.val = 0 := by omega
  simp [State.pop, hne]

/-- A pop from an empty stack. -/
theorem State.pop_none (s : State) (h : s.sp.val = 0) : s.pop = none := by
  simp [State.pop, h]

/-! ### Taking a fault (R165) -/

/-- A fault in a handler changes `pc` back and the latch, nothing else. -/
theorem State.raiseExec_eq (s : State) (k : FaultKind) (i : Instr) :
    s.raiseExec k i =
      { s with pc := s.pc - 2, fault := some { kind := k, addr := s.pc - 2, opcode := encode i } } := rfl

/-- A fault in a handler, seen from the state before the fetch advanced `pc`: only the latch changes. -/
theorem State.raiseExec_advanced (s : State) (k : FaultKind) (i : Instr) :
    (s.setPc (s.pc + 2)).raiseExec k i =
      { s with fault := some { kind := k, addr := s.pc, opcode := encode i } } := by
  simp [State.raiseExec, State.setPc, State.raise]

/-- An access in bounds is done; one out of bounds faults. -/
theorem State.accessing_cases (s : State) (n : Nat) (i : Instr) (done : State) :
    (accessOk s.I.toNat n = true ∧ s.accessing n i done = done) ∨
    (accessOk s.I.toNat n = false ∧ s.accessing n i done = s.raiseExec .memoryOutOfBounds i) := by
  unfold State.accessing
  cases h : accessOk s.I.toNat n <;> simp

/-! ### Block transfers (R125, R126) -/

/-- `V[k]` for every `k` up to `x`, as a list. -/
@[simp] theorem State.length_regsUpTo (s : State) (x : Reg) : (s.regsUpTo x).length = x.toNat + 1 := by
  simp [State.regsUpTo]

theorem State.getElem_regsUpTo (s : State) (x : Reg) (k : Nat) (h : k < (s.regsUpTo x).length) :
    (s.regsUpTo x)[k] = s.reg (BitVec.ofNat 4 k) := by
  simp [State.regsUpTo]

/-- Loading the first `n` registers from `a` on: which registers have which value. -/
theorem State.reg_foldl_load (s : State) (a n : Nat) (hn : n ≤ 16) (r : Reg) :
    ((List.range n).foldl (fun t k => t.setReg (BitVec.ofNat 4 k) (s.readByte (a + k))) s).reg r =
      if r.toNat < n then s.readByte (a + r.toNat) else s.reg r := by
  induction n with
  | zero => simp
  | succ n ih =>
    rw [List.range_succ, List.foldl_append, List.foldl_cons, List.foldl_nil, State.reg_setReg,
      ih (by omega)]
    by_cases h : r = BitVec.ofNat 4 n
    · have hr : r.toNat = n := by rw [h, BitVec.toNat_ofNat]; omega
      rw [if_pos h, if_pos (by omega), hr]
    · have hr : r.toNat ≠ n := fun e => h (BitVec.eq_of_toNat_eq (by rw [BitVec.toNat_ofNat]; omega))
      rw [if_neg h]
      by_cases hlt : r.toNat < n
      · rw [if_pos hlt, if_pos (by omega)]
      · rw [if_neg hlt, if_neg (by omega)]

/-- What a block load leaves in every register. -/
theorem State.reg_loadRegsFrom (s : State) (a : Nat) (x r : Reg) :
    (s.loadRegsFrom a x).reg r = if r.toNat ≤ x.toNat then s.readByte (a + r.toNat) else s.reg r := by
  have hx : x.toNat < 16 := x.isLt
  rw [State.loadRegsFrom, State.reg_foldl_load s a (x.toNat + 1) (by omega) r]
  by_cases h : r.toNat ≤ x.toNat
  · rw [if_pos h, if_pos (by omega)]
  · rw [if_neg h, if_neg (by omega)]

/-- Register writes one after another change `V` only. -/
theorem State.foldl_setReg_frame (s : State) (f : Nat → Reg) (g : Nat → Byte) (l : List Nat) :
    ∀ t : State, t = { s with V := t.V } →
      l.foldl (fun t k => t.setReg (f k) (g k)) t =
        { s with V := (l.foldl (fun t k => t.setReg (f k) (g k)) t).V } := by
  induction l with
  | nil => intro t h; exact h
  | cons k l ih =>
    intro t h
    refine ih _ ?_
    rw [h]
    rfl

/-- A block load changes `V` only. -/
theorem State.loadRegsFrom_frame (s : State) (a : Nat) (x : Reg) :
    s.loadRegsFrom a x = { s with V := (s.loadRegsFrom a x).V } :=
  State.foldl_setReg_frame s _ _ _ s rfl

/-! ### Framebuffer (R20) -/

/-- Toggling one pixel flips it and no other. -/
theorem Framebuffer.get_toggle (fb : Framebuffer) (k j : Nat) (hk : k < 2048) (hj : j < 2048) :
    (fb.toggle k).get j = (fb.get j ^^ decide (j = k)) := by
  have hk' : k / 64 < 32 := by omega
  have hj' : j / 64 < 32 := by omega
  simp only [Framebuffer.get, Framebuffer.toggle, hk', hj', dif_pos]
  rw [Vector.getElem_set]
  split
  · next h =>
    simp only [BitVec.getLsbD_xor, BitVec.getLsbD_twoPow, h]
    have h1 : (k % 64 = j % 64) ↔ (j = k) := by omega
    have h2 : k % 64 < 64 := Nat.mod_lt _ (by decide)
    simp [h1, h2]
  · next h =>
    have : ¬ j = k := by rintro rfl; exact h rfl
    simp [this]

/-- A blank framebuffer has no lit pixel. -/
theorem Framebuffer.get_blank (k : Nat) : Framebuffer.blank.get k = false := by
  unfold Framebuffer.get
  split
  · simp [Framebuffer.blank]
  · rfl

/-- Two framebuffers with the same 2048 pixels are equal. -/
theorem Framebuffer.ext_get (fb fb' : Framebuffer) (h : ∀ k < 2048, fb.get k = fb'.get k) : fb = fb' := by
  apply Vector.ext
  intro r hr
  apply BitVec.eq_of_getLsbD_eq
  intro c hc
  have hk := h (c + 64 * r) (by omega)
  have h1 : (c + 64 * r) / 64 = r := by omega
  have h2 : (c + 64 * r) % 64 = c := by omega
  simpa [Framebuffer.get, h1, h2, hr] using hk

/-- A pixel index of a sprite lies on the screen. -/
theorem pixelIndex_lt (vx vy : Byte) (r b : Nat) : pixelIndex vx vy r b < 2048 := by
  unfold pixelIndex; omega

/-! ### Keys (R144) -/

/-- The lowest key found is down and every lower one is up. -/
theorem State.lowestKey_some {s : State} {k : Nat} (h : s.lowestKey = some k) :
    k < 16 ∧ s.keyDown (BitVec.ofNat 4 k) = true ∧ ∀ j < k, s.keyDown (BitVec.ofNat 4 j) = false := by
  rw [State.lowestKey, List.find?_range_eq_some] at h
  obtain ⟨h1, h2, h3⟩ := h
  refine ⟨List.mem_range.1 h2, h1, fun j hj => ?_⟩
  simpa using h3 j hj

/-- No lowest key means that every key is up. -/
theorem State.lowestKey_none {s : State} (h : s.lowestKey = none) (k : BitVec 4) : s.keyDown k = false := by
  rw [State.lowestKey, List.find?_eq_none] at h
  have := h k.toNat (List.mem_range.2 k.isLt)
  simpa using this

/-! ### The step -/

/-- Every way a step can go: halted, fetch outside memory, no row for the word, or the handler. -/
theorem step_cases (s : State) :
    (s.halted = true ∧ step s = .next s) ∨
    (s.halted = false ∧ s.fetchWord = none ∧ step s = .next (s.raise .memoryOutOfBounds s.pc 0)) ∨
    (∃ op, s.halted = false ∧ s.fetchWord = some op ∧ decodeWord op = none ∧
      step s = .next (s.raise .unimplementedOpcode s.pc op)) ∨
    (∃ op i, s.halted = false ∧ s.fetchWord = some op ∧ decodeWord op = some i ∧
      step s = exec i (s.setPc (s.pc + 2))) := by
  unfold step tick
  cases hh : s.halted with
  | true => exact .inl ⟨rfl, by simp⟩
  | false =>
    cases hf : s.fetchWord with
    | none => exact .inr (.inl ⟨rfl, rfl, by simp⟩)
    | some op =>
      cases hd : decodeWord op with
      | none => exact .inr (.inr (.inl ⟨op, rfl, rfl, hd, by simp [tickWord, hd]⟩))
      | some i => exact .inr (.inr (.inr ⟨op, i, rfl, rfl, hd, by simp [tickWord, hd]⟩))

/-- Every instruction answers a next state. -/
theorem exec_next (i : Instr) (s : State) : ∃ t, exec i s = .next t := by
  cases i
  case ret => unfold exec execRet; cases s.pop <;> exact ⟨_, rfl⟩
  case call nnn => unfold exec execCall; cases s.push s.pc <;> exact ⟨_, rfl⟩
  case ldVxK x => unfold exec execLdVxK; cases s.lowestKey <;> exact ⟨_, rfl⟩
  all_goals exact ⟨_, rfl⟩

end Sys2Proof.Machine
end

