-- ==== Sys2Proof/Laws/PerInstr.lean ====
section
/-! SUPPORT. Per-instruction statements: the family EncodedKey says that the word an instruction encodes to has the
dispatch key of the instruction's own row of R66. -/

namespace Sys2Proof.Laws

/-- The `match` value of an instruction's row in R66. -/
def EncodedKey.rowKey : Instr → Word
  | .cls => 0x00E0
  | .ret => 0x00EE
  | .jp _ => 0x1000
  | .call _ => 0x2000
  | .seByte _ _ => 0x3000
  | .sneByte _ _ => 0x4000
  | .seReg _ _ => 0x5000
  | .sneReg _ _ => 0x9000
  | .ldByte _ _ => 0x6000
  | .addByte _ _ => 0x7000
  | .ldReg _ _ => 0x8000
  | .orReg _ _ => 0x8001
  | .andReg _ _ => 0x8002
  | .xorReg _ _ => 0x8003
  | .addReg _ _ => 0x8004
  | .subReg _ _ => 0x8005
  | .shr _ _ => 0x8006
  | .subnReg _ _ => 0x8007
  | .shl _ _ => 0x800E
  | .ldI _ => 0xA000
  | .jpV0 _ => 0xB000
  | .rnd _ _ => 0xC000
  | .drw _ _ _ => 0xD000
  | .skp _ => 0xE09E
  | .sknp _ => 0xE0A1
  | .ldVxDt _ => 0xF007
  | .ldVxK _ => 0xF00A
  | .ldDtVx _ => 0xF015
  | .ldStVx _ => 0xF018
  | .addI _ => 0xF01E
  | .ldF _ => 0xF029
  | .ldB _ => 0xF033
  | .storeRegs _ => 0xF055
  | .loadRegs _ => 0xF065

/-- The word of the instruction dispatches to its row. -/
def EncodedKey.Statement (i : Instr) : Prop := dispatchKey (encode i) = EncodedKey.rowKey i

theorem EncodedKey.cls : EncodedKey.Statement (.cls) := rfl
theorem EncodedKey.ret : EncodedKey.Statement (.ret) := rfl
theorem EncodedKey.jp (nnn : Addr12) : EncodedKey.Statement (.jp nnn) := dispatchKey_addr 0x1#4 nnn rfl
theorem EncodedKey.call (nnn : Addr12) : EncodedKey.Statement (.call nnn) := dispatchKey_addr 0x2#4 nnn rfl
theorem EncodedKey.seByte (x : Reg) (nn : Byte) : EncodedKey.Statement (.seByte x nn) :=
  dispatchKey_imm 0x3#4 x nn rfl
theorem EncodedKey.sneByte (x : Reg) (nn : Byte) : EncodedKey.Statement (.sneByte x nn) :=
  dispatchKey_imm 0x4#4 x nn rfl
theorem EncodedKey.seReg (x : Reg) (y : Reg) : EncodedKey.Statement (.seReg x y) :=
  dispatchKey_regs 0x5#4 x y 0x0#4 rfl
theorem EncodedKey.sneReg (x : Reg) (y : Reg) : EncodedKey.Statement (.sneReg x y) :=
  dispatchKey_regs 0x9#4 x y 0x0#4 rfl
theorem EncodedKey.ldByte (x : Reg) (nn : Byte) : EncodedKey.Statement (.ldByte x nn) :=
  dispatchKey_imm 0x6#4 x nn rfl
theorem EncodedKey.addByte (x : Reg) (nn : Byte) : EncodedKey.Statement (.addByte x nn) :=
  dispatchKey_imm 0x7#4 x nn rfl
theorem EncodedKey.ldReg (x : Reg) (y : Reg) : EncodedKey.Statement (.ldReg x y) :=
  dispatchKey_regs 0x8#4 x y 0x0#4 rfl
theorem EncodedKey.orReg (x : Reg) (y : Reg) : EncodedKey.Statement (.orReg x y) :=
  dispatchKey_regs 0x8#4 x y 0x1#4 rfl
theorem EncodedKey.andReg (x : Reg) (y : Reg) : EncodedKey.Statement (.andReg x y) :=
  dispatchKey_regs 0x8#4 x y 0x2#4 rfl
theorem EncodedKey.xorReg (x : Reg) (y : Reg) : EncodedKey.Statement (.xorReg x y) :=
  dispatchKey_regs 0x8#4 x y 0x3#4 rfl
theorem EncodedKey.addReg (x : Reg) (y : Reg) : EncodedKey.Statement (.addReg x y) :=
  dispatchKey_regs 0x8#4 x y 0x4#4 rfl
theorem EncodedKey.subReg (x : Reg) (y : Reg) : EncodedKey.Statement (.subReg x y) :=
  dispatchKey_regs 0x8#4 x y 0x5#4 rfl
theorem EncodedKey.shr (x : Reg) (y : Reg) : EncodedKey.Statement (.shr x y) :=
  dispatchKey_regs 0x8#4 x y 0x6#4 rfl
theorem EncodedKey.subnReg (x : Reg) (y : Reg) : EncodedKey.Statement (.subnReg x y) :=
  dispatchKey_regs 0x8#4 x y 0x7#4 rfl
theorem EncodedKey.shl (x : Reg) (y : Reg) : EncodedKey.Statement (.shl x y) :=
  dispatchKey_regs 0x8#4 x y 0xE#4 rfl
theorem EncodedKey.ldI (nnn : Addr12) : EncodedKey.Statement (.ldI nnn) := dispatchKey_addr 0xA#4 nnn rfl
theorem EncodedKey.jpV0 (nnn : Addr12) : EncodedKey.Statement (.jpV0 nnn) := dispatchKey_addr 0xB#4 nnn rfl
theorem EncodedKey.rnd (x : Reg) (nn : Byte) : EncodedKey.Statement (.rnd x nn) :=
  dispatchKey_imm 0xC#4 x nn rfl
theorem EncodedKey.drw (x : Reg) (y : Reg) (n : Nibble) : EncodedKey.Statement (.drw x y n) :=
  dispatchKey_sprite 0xD#4 x y n rfl
theorem EncodedKey.skp (x : Reg) : EncodedKey.Statement (.skp x) := dispatchKey_reg 0xE#4 x 0x9E#8 rfl
theorem EncodedKey.sknp (x : Reg) : EncodedKey.Statement (.sknp x) := dispatchKey_reg 0xE#4 x 0xA1#8 rfl
theorem EncodedKey.ldVxDt (x : Reg) : EncodedKey.Statement (.ldVxDt x) := dispatchKey_reg 0xF#4 x 0x07#8 rfl
theorem EncodedKey.ldVxK (x : Reg) : EncodedKey.Statement (.ldVxK x) := dispatchKey_reg 0xF#4 x 0x0A#8 rfl
theorem EncodedKey.ldDtVx (x : Reg) : EncodedKey.Statement (.ldDtVx x) := dispatchKey_reg 0xF#4 x 0x15#8 rfl
theorem EncodedKey.ldStVx (x : Reg) : EncodedKey.Statement (.ldStVx x) := dispatchKey_reg 0xF#4 x 0x18#8 rfl
theorem EncodedKey.addI (x : Reg) : EncodedKey.Statement (.addI x) := dispatchKey_reg 0xF#4 x 0x1E#8 rfl
theorem EncodedKey.ldF (x : Reg) : EncodedKey.Statement (.ldF x) := dispatchKey_reg 0xF#4 x 0x29#8 rfl
theorem EncodedKey.ldB (x : Reg) : EncodedKey.Statement (.ldB x) := dispatchKey_reg 0xF#4 x 0x33#8 rfl
theorem EncodedKey.storeRegs (x : Reg) : EncodedKey.Statement (.storeRegs x) :=
  dispatchKey_reg 0xF#4 x 0x55#8 rfl
theorem EncodedKey.loadRegs (x : Reg) : EncodedKey.Statement (.loadRegs x) :=
  dispatchKey_reg 0xF#4 x 0x65#8 rfl

end Sys2Proof.Laws
end

