-- ==== Sys2Proof/Tests/Slice0.lean ====
section
/-! SUPPORT. The model's own tests: words decoded, one-step checks with results taken from spec/95_test_vectors.md
(the vector's name stands in the comment), and for every statement with hypotheses a state that meets them. -/

namespace Sys2Proof.Tests

-- One theorem after the other: many waiting at once need a thread, and its stack, each.
set_option Elab.async false

open Sys2Proof Sys2Proof.Machine

/-- The reset state with one instruction word at 0x200. -/
def placed (w : Nat) : State := State.reset.withFetchWord 16 w

/-- What `f` reads from the next state, if the answer is one. -/
def after {α : Type} (r : Result) (f : State → α) : Option α :=
  match r with
  | .next t => some (f t)
  | _ => none

theorem next_of_after {r : Result} {t : State} (h : after r id = some t) : r = .next t := by
  cases r with
  | next s => cases h; rfl
  | fault f => cases f
  | refused q => cases h

/-- The reset state with `n` live stack entries. -/
def withSp (s : State) (n : Fin 17) : State := { s with sp := n }

/-- A faulted state: `RET` with an empty stack at 0x200. -/
def faulted : State := State.reset.raise .stackUnderflow 0x200 0x00EE

/-! ### Well-formedness: each check and a term it refuses

`wellFormed` refuses no term (`Instr.wellFormed_all`): the widths stand in the types. `assembled` is the check a term
can fail. -/

theorem test_assembled_refuses_shr : (Instr.shr 1 2).assembled = false := by decide
theorem test_assembled_refuses_shl : (Instr.shl 1 2).assembled = false := by decide
theorem test_assembled_accepts : (Instr.shr 1 0).assembled = true ∧ (Instr.subReg 1 2).assembled = true := by decide
theorem test_wellFormed_extremes :
    (Instr.jp 0xFFF).wellFormed = true ∧ (Instr.drw 15 15 15).wellFormed = true := by decide

/-! ### Decoding: words of spec/95_test_vectors.md 2.1, one for every constructor -/

theorem test_decode_control :
    [0x00E0, 0x00EE, 0x1ABC, 0x2ABC, 0x3A7F, 0x4A7F, 0x5AB0, 0x9AB0].map decodeWord =
      [Instr.cls, .ret, .jp 0xABC, .call 0xABC, .seByte 0xA 0x7F, .sneByte 0xA 0x7F, .seReg 0xA 0xB,
        .sneReg 0xA 0xB].map some := by decide

theorem test_decode_alu :
    [0x6A7F, 0x7A7F, 0x8AB0, 0x8AB1, 0x8AB2, 0x8AB3, 0x8AB4, 0x8AB5, 0x8AB6, 0x8AB7, 0x8ABE, 0xCA7F].map decodeWord =
      [Instr.ldByte 0xA 0x7F, .addByte 0xA 0x7F, .ldReg 0xA 0xB, .orReg 0xA 0xB, .andReg 0xA 0xB, .xorReg 0xA 0xB,
        .addReg 0xA 0xB, .subReg 0xA 0xB, .shr 0xA 0xB, .subnReg 0xA 0xB, .shl 0xA 0xB, .rnd 0xA 0x7F].map some := by
  decide

theorem test_decode_memory_graphics :
    [0xAABC, 0xBABC, 0xDAB5, 0xDAB0, 0xFA1E, 0xFA29, 0xFA33, 0xFA55, 0xFA65].map decodeWord =
      [Instr.ldI 0xABC, .jpV0 0xABC, .drw 0xA 0xB 5, .drw 0xA 0xB 0, .addI 0xA, .ldF 0xA, .ldB 0xA, .storeRegs 0xA,
        .loadRegs 0xA].map some := by decide

theorem test_decode_timer_keypad :
    [0xEA9E, 0xEAA1, 0xFA07, 0xFA0A, 0xFA15, 0xFA18].map decodeWord =
      [Instr.skp 0xA, .sknp 0xA, .ldVxDt 0xA, .ldVxK 0xA, .ldDtVx 0xA, .ldStVx 0xA].map some := by decide

theorem test_decode_illegal :
    [0x0000, 0x00E1, 0x0123, 0x5AB1, 0x8AB8, 0x8ABD, 0x8ABF, 0x9AB5, 0xEA9F, 0xE000, 0xFA08, 0xFA75, 0xFFFF].all
      (fun w => (decodeWord w).isNone) = true := by decide

/-- "Fetch byte order": `A2 F0` is `LD I,0x2F0`. -/
theorem test_decode_bytes : decode [0xA2, 0xF0, 0x55] = .ok (.ldI 0x2F0, [0x55]) := by decide
theorem test_decode_truncated : decode [0xA2] = .error .truncated := by decide
theorem test_decodeTableWord : decodeTableWord 16 0x6A7F = some (.ldByte 0xA 0x7F) := by decide
theorem test_opcodeTable_rows : opcodeTable.length = 34 := by decide

/-! ### The font and reset -/

theorem test_font_length : fontTable.length = 80 := by decide

/-- A `FONT` that is not the default. -/
def otherFont : Config.Font := Vector.replicate 80 0xAA

/-- S1 with another `FONT`: a font byte a program overwrote is restored from `FONT`, and 0 stands above the table. -/
theorem test_reset_reseeds_font :
    let t := performAll otherFont [.reset] (State.reset.writeBytes 0 [1, 2])
    t.readByte 0 = 0xAA ∧ t.readByte 79 = 0xAA ∧ t.readByte 80 = 0 ∧ t.memory.wf = true := by decide

/-- S1, IM29: the first font byte at power-on, with another `FONT` and with the default. -/
theorem test_powerOn_font :
    (State.powerOn otherFont).readByte 0 = 0xAA ∧ (State.powerOn defaultFont).readByte 0 = 0xF0 := by decide

/-- H1: nothing loaded, the first `Tick` meets the word 0x0000. -/
theorem test_tick_from_reset :
    after (step State.reset) id = some (State.reset.raise .unimplementedOpcode 0x200 0) := by decide

/-! ### Control flow (vectors CF) -/

/-- CF8. -/
theorem test_ret :
    after (step ((((placed 0x00EE).push 0x210).bind (fun t => t.push 0x320)).getD State.reset))
      (fun t => (t.sp.val, t.pc, t.stack[1])) = some (1, 0x320, 0x320) := by decide

/-- CF9. -/
theorem test_ret_underflow :
    after (step (placed 0x00EE)) (fun t => (t.fault, t.pc, t.sp.val)) =
      some (some ⟨.stackUnderflow, 0x200, 0x00EE⟩, 0x200, 0) := by decide

/-- CF1. -/
theorem test_jp : after (step (placed 0x1FFE)) State.pc = some 0xFFE := by decide

/-- CF7: the pushed return address is 0x1000. -/
theorem test_call_at_top :
    after (step ((State.reset.setPc 0xFFE).withFetchWord 16 0x2300)) (fun t => (t.stack[0], t.sp.val, t.pc)) =
      some (0x1000, 1, 0x300) := by decide

/-- CF6. -/
theorem test_call_overflow :
    after (step (withSp (placed 0x2300) 16)) (fun t => (t.fault, t.pc, t.sp.val)) =
      some (some ⟨.stackOverflow, 0x200, 0x2300⟩, 0x200, 16) := by decide

/-- CF10. -/
theorem test_seByte : after (step ((placed 0x3007).setReg 0 0x07)) State.pc = some 0x204 := by decide
/-- CF11. -/
theorem test_seByte_not : after (step ((placed 0x3007).setReg 0 0x08)) State.pc = some 0x202 := by decide
/-- CF12. -/
theorem test_sneByte_not : after (step ((placed 0x4007).setReg 0 0x07)) State.pc = some 0x202 := by decide
/-- CF13. -/
theorem test_sneByte : after (step ((placed 0x4007).setReg 0 0x08)) State.pc = some 0x204 := by decide
/-- CF14. -/
theorem test_seReg :
    after (step (((placed 0x5010).setReg 0 0xAA).setReg 1 0xAA)) State.pc = some 0x204 := by decide
/-- CF15. -/
theorem test_seReg_not :
    after (step (((placed 0x5010).setReg 0 0xAA).setReg 1 0xAB)) State.pc = some 0x202 := by decide
/-- CF17. -/
theorem test_sneReg :
    after (step (((placed 0x9010).setReg 0 0xAA).setReg 1 0xAB)) State.pc = some 0x204 := by decide
/-- CF19. -/
theorem test_sneReg_same : after (step (placed 0x9000)) State.pc = some 0x202 := by decide
/-- CF23. -/
theorem test_jpV0_unmasked : after (step ((placed 0xBFFF).setReg 0 0xFF)) State.pc = some 0x10FE := by decide
/-- CF24. -/
theorem test_jpV0_ignores_V3 : after (step ((placed 0xB300).setReg 3 0x55)) State.pc = some 0x300 := by decide

/-- CF25, second tick: the fetch at 0xFFF. -/
theorem test_fetch_at_top :
    after (step (State.reset.setPc 0xFFF)) id =
      some ((State.reset.setPc 0xFFF).raise .memoryOutOfBounds 0xFFF 0) := by decide

/-! ### Loads, arithmetic, logic, shifts, random (vectors AL) -/

/-- AL2. -/
theorem test_ldByte_VF : after (step (placed 0x6F2B)) (fun t => t.reg 15) = some 0x2B := by decide
/-- AL3. -/
theorem test_addByte_no_flag :
    after (step ((placed 0x7105).setReg 1 0xFE)) (fun t => (t.reg 1, t.reg 15)) = some (0x03, 0) := by decide
/-- AL6. -/
theorem test_ldReg : after (step ((placed 0x8120).setReg 2 0x7E)) (fun t => t.reg 1) = some 0x7E := by decide
/-- AL7. -/
theorem test_orReg :
    after (step ((((placed 0x8121).setReg 1 0xF0).setReg 2 0x0F).setReg 15 1)) (fun t => (t.reg 1, t.reg 15)) =
      some (0xFF, 1) := by decide
/-- AL8. -/
theorem test_andReg :
    after (step ((((placed 0x8122).setReg 1 0xF3).setReg 2 0x3C).setReg 15 1)) (fun t => (t.reg 1, t.reg 15)) =
      some (0x30, 1) := by decide
/-- AL9. -/
theorem test_xorReg :
    after (step ((((placed 0x8123).setReg 1 0xFF).setReg 2 0x0F).setReg 15 1)) (fun t => (t.reg 1, t.reg 15)) =
      some (0xF0, 1) := by decide
/-- AL11, S3. -/
theorem test_addReg_carry :
    after (step (((placed 0x8014).setReg 0 0xFF).setReg 1 1)) (fun t => (t.reg 0, t.reg 1, t.reg 15, t.pc)) =
      some (0, 1, 1, 0x202) := by decide
/-- AL15. -/
theorem test_addReg_into_VF :
    after (step (((placed 0x8F14).setReg 15 0xF0).setReg 1 0x20)) (fun t => t.reg 15) = some 1 := by decide
/-- AL19, S4. -/
theorem test_subReg_borrow :
    after (step ((((placed 0x8015).setReg 0 1).setReg 1 2).setReg 15 1)) (fun t => (t.reg 0, t.reg 15)) =
      some (0xFF, 0) := by decide
/-- AL25. -/
theorem test_subReg_from_VF :
    after (step (((placed 0x80F5).setReg 0 0x10).setReg 15 1)) (fun t => (t.reg 0, t.reg 15)) =
      some (0x0F, 1) := by decide
/-- AL29. -/
theorem test_shr_ignores_y :
    after (step (((placed 0x8016).setReg 0 5).setReg 1 0xFF)) (fun t => (t.reg 0, t.reg 1, t.reg 15)) =
      some (2, 0xFF, 1) := by decide
/-- AL31. -/
theorem test_shr_VF : after (step ((placed 0x8FF6).setReg 15 2)) (fun t => t.reg 15) = some 0 := by decide
/-- AL32. -/
theorem test_subnReg :
    after (step (((placed 0x8127).setReg 1 3).setReg 2 5)) (fun t => (t.reg 1, t.reg 2, t.reg 15)) =
      some (2, 5, 1) := by decide
/-- AL33. -/
theorem test_subnReg_borrow :
    after (step (((placed 0x8127).setReg 1 5).setReg 2 3)) (fun t => (t.reg 1, t.reg 15)) =
      some (0xFE, 0) := by decide
/-- AL38. -/
theorem test_shl_ignores_y :
    after (step (((placed 0x812E).setReg 1 1).setReg 2 0x80)) (fun t => (t.reg 1, t.reg 2, t.reg 15)) =
      some (2, 0x80, 0) := by decide
/-- AL39. -/
theorem test_shl_VF : after (step ((placed 0x8FFE).setReg 15 0x80)) (fun t => t.reg 15) = some 1 := by decide

/-- AL41: with the mask 0, whatever is drawn. -/
theorem test_rnd_mask_zero :
    ∃ t, exec (.rnd 1 0) State.reset = .next t ∧ t.reg 1 = 0 := by
  refine ⟨_, rfl, ?_⟩
  rw [State.reg_setReg_self]
  exact BitVec.and_zero

/-! ### Index register and memory (vectors IM) -/

/-- IM1. -/
theorem test_ldI : after (step (placed 0xAFFF)) State.I = some 0xFFF := by decide
/-- IM5. -/
theorem test_addI_wraps :
    after (step (((placed 0xF11E).setI 0xFFFF).setReg 1 2)) State.I = some 1 := by decide
/-- IM4. -/
theorem test_addI_no_flag :
    after (step (((placed 0xF11E).setI 0xFFF).setReg 1 1)) (fun t => (t.I, t.reg 15, t.fault)) =
      some (0x1000, 0, none) := by decide
/-- IM9. -/
theorem test_ldF_low_nibble : after (step ((placed 0xF129).setReg 1 0x1A)) State.I = some 0x32 := by decide
/-- IM17. -/
theorem test_ldB_at_top :
    after (step (((placed 0xF033).setI 0xFFD).setReg 0 0x7B))
      (fun t => (t.readByte 0xFFD, t.readByte 0xFFE, t.readByte 0xFFF, t.fault)) = some (1, 2, 3, none) := by
  decide
/-- IM18. -/
theorem test_ldB_out_of_bounds :
    after (step ((placed 0xF033).setI 0xFFE)) (fun t => (t.fault, t.pc, t.memory == (placed 0xF033).memory)) =
      some (some ⟨.memoryOutOfBounds, 0x200, 0xF033⟩, 0x200, true) := by decide
/-- IM19. -/
theorem test_storeRegs :
    after (step (((((((placed 0xF255).setI 0x300).setReg 0 0x11).setReg 1 0x22).setReg 2 0x33).setReg 3 0x44)))
      (fun t => (t.readByte 0x300, t.readByte 0x301, t.readByte 0x302, t.readByte 0x303, t.I)) =
      some (0x11, 0x22, 0x33, 0, 0x300) := by decide
/-- IM21. -/
theorem test_storeRegs_out_of_bounds :
    after (step (((placed 0xF155).setI 0xFFF).setReg 0 0x77)) (fun t => (t.fault, t.readByte 0xFFF)) =
      some (some ⟨.memoryOutOfBounds, 0x200, 0xF155⟩, 0) := by decide
/-- IM26. -/
theorem test_loadRegs :
    after (step ((((placed 0xF265).setI 0x300).writeBytes 0x300 [1, 5, 7, 9]).setReg 3 0xEE))
      (fun t => (t.reg 0, t.reg 1, t.reg 2, t.reg 3, t.I)) = some (1, 5, 7, 0xEE, 0x300) := by decide
/-- IM28. -/
theorem test_loadRegs_out_of_bounds :
    after (step (((placed 0xF165).setI 0xFFF).setReg 0 0x77)) (fun t => (t.fault, t.reg 0)) =
      some (some ⟨.memoryOutOfBounds, 0x200, 0xF165⟩, 0x77) := by decide

/-! ### Graphics (vectors GR) -/

/-- GR1. -/
theorem test_cls :
    after (step (((placed 0x00E0).setFb ((Framebuffer.blank.toggle 5).toggle 2047)).setReg 15 1))
      (fun t => (t.fb, t.reg 15)) = some (Framebuffer.blank, 1) := by decide +kernel
/-- GR6: both coordinates wrap; pixels (63,31) and (0,31) to (6,31). -/
theorem test_drw_wraps :
    after (step (((((placed 0xD011).setI 0x300).writeBytes 0x300 [0xFF]).setReg 0 0xFF).setReg 1 0xFF))
      (fun t => (t.fb, t.reg 15)) = some (Framebuffer.blank.set 31 0x800000000000007F, 0) := by decide +kernel
/-- GR9: a collision. -/
theorem test_drw_collision :
    after (step ((((placed 0xD011).setI 0x300).writeBytes 0x300 [0xC0]).setFb (Framebuffer.blank.toggle 0)))
      (fun t => (t.fb, t.reg 15)) = some (Framebuffer.blank.set 0 0x2, 1) := by decide +kernel

/-! ### Timers and keypad (vectors TK) -/

/-- TK5. -/
theorem test_skp_low_nibble :
    after (step (((placed 0xE19E).setReg 1 0x15).setKey 5 true)) State.pc = some 0x204 := by decide
/-- TK2. -/
theorem test_skp_not :
    after (step (((placed 0xE19E).setReg 1 5).setKey 4 true)) State.pc = some 0x202 := by decide
/-- TK3. -/
theorem test_sknp : after (step ((placed 0xE1A1).setReg 1 5)) State.pc = some 0x204 := by decide
/-- TK4. -/
theorem test_sknp_not :
    after (step (((placed 0xE1A1).setReg 1 5).setKey 5 true)) State.pc = some 0x202 := by decide
/-- TK6. -/
theorem test_ldVxDt :
    after (step ((placed 0xF107).setDT 0x2A)) (fun t => (t.reg 1, t.DT)) = some (0x2A, 0x2A) := by decide
/-- TK9. -/
theorem test_ldVxK_waits : after (step (placed 0xF30A)) id = some (placed 0xF30A) := by decide
/-- TK10. -/
theorem test_ldVxK_lowest :
    after (step (((placed 0xF30A).setKey 7 true).setKey 3 true)) (fun t => (t.reg 3, t.pc)) = some (3, 0x202) := by
  decide
/-- TK7. -/
theorem test_ldDtVx :
    after (step ((placed 0xF115).setReg 1 0x3C)) (fun t => (t.DT, t.ST)) = some (0x3C, 0) := by decide
/-- TK8. -/
theorem test_ldStVx :
    after (step ((placed 0xF118).setReg 1 5)) (fun t => (t.ST, t.DT)) = some (5, 0) := by decide

/-! ### Host operations (vectors TK, H) -/

/-- TK15. -/
theorem test_tickTimers :
    ((State.reset.setST 1).tickTimers.DT, (State.reset.setST 1).tickTimers.ST) = (0, 0) := by decide
/-- H6. -/
theorem test_load_twice :
    ((performAll defaultFont [.load [1, 2, 3, 4], .load [9]] State.reset).memory) =
      [(0x200, 9), (0x201, 2), (0x202, 3), (0x203, 4)] := by decide
/-- H2: a halted machine still takes key events. -/
theorem test_halted_keyEvent :
    let t := performAll defaultFont [.tick, .tick, .keyEvent 1 true] State.reset
    t.keyDown 1 = true ∧ t.halted = true := by decide
/-- H7. -/
theorem test_reset_then_run :
    let t := performAll defaultFont [.tick, .reset, .load [0x12, 0x00], .tick] State.reset
    t.halted = false ∧ t.pc = 0x200 := by decide
/-- TK18. -/
theorem test_keyEvent_release :
    (performAll defaultFont [.keyEvent 5 true, .keyEvent 5 true, .keyEvent 5 false] State.reset).keyDown 5 = false := by
  decide
theorem test_snapshot_length : State.reset.snapshot.length = 2048 := by decide +kernel
theorem test_fault_ordinals :
    [FaultKind.unimplementedOpcode, .memoryOutOfBounds, .stackOverflow, .stackUnderflow, .loadTooLarge].map
      FaultKind.ordinal = [1, 2, 3, 4, 5] := by decide

/-! ### Witnesses: for every statement with hypotheses, a state and operands that meet them -/

/-- A state of the invariant at its bounds: `pc = 0x10FE`, a return address 0x1000, a cell of memory listed. -/
def atBounds : State :=
  { State.reset with
    pc := 0x10FE, sp := 1, stack := State.reset.stack.set 0 0x1000, memory := [(0xFFF, 0x77)] }

theorem test_witness_Inv_atBounds : atBounds.Inv := by
  refine ⟨by decide +kernel, by decide +kernel, by decide +kernel, ?_⟩
  intro r h; cases h

theorem test_witness_Inv_faulted : faulted.Inv := by
  refine ⟨by decide +kernel, by decide +kernel, by decide +kernel, ?_⟩
  intro r h _; cases h; rfl

/-- StepKeepsInvariant: a state of the invariant whose step answers a next state. -/
theorem test_witness_StepKeepsInvariant :
    faulted.Inv ∧ step faulted = .next faulted ∧ atBounds.Inv ∧
      step atBounds = .next (atBounds.raise .memoryOutOfBounds 0x10FE 0) :=
  ⟨test_witness_Inv_faulted, next_of_after (by decide), test_witness_Inv_atBounds,
    next_of_after (by decide)⟩

/-- HostRunsKeepInvariant. -/
theorem test_witness_HostRunsKeepInvariant :
    atBounds.Inv ∧
      (performAll defaultFont [.tick, .tickTimers, .snapshot, .keyEvent 3 true] atBounds).halted = true :=
  ⟨test_witness_Inv_atBounds, by decide +kernel⟩

/-- CanonicalMemoriesAreEqualByReads: two ways to one memory, one of which writes and undoes a font byte. -/
theorem test_witness_CanonicalMemories :
    let m : Memory := Memory.writeList [] 0x300 [1, 2]
    let m' : Memory := Memory.write (Memory.write (Memory.writeList [] 0x300 [1, 2]) 0 0xAA) 0 (fontByte 0)
    m.wf = true ∧ m'.wf = true ∧ ∀ a, m.read a = m'.read a := by
  have e : Memory.write (Memory.write (Memory.writeList [] 0x300 [1, 2]) 0 0xAA) 0 (fontByte 0) =
      Memory.writeList [] 0x300 [1, 2] := by decide
  refine ⟨by decide +kernel, by decide +kernel, fun a => ?_⟩
  rw [e]

/-- DecodeOfEncodeIsIdentity. -/
theorem test_witness_DecodeOfEncode : (Instr.drw 15 15 15).wellFormed = true := by decide

/-- EncodeOfDecodeIsIdentity: a shift with a `y` that plays no part. -/
theorem test_witness_EncodeOfDecode : decodeWord 0x8FF6 = some (.shr 15 15) := by decide

/-- FetchIsBigEndian: the two clauses where they meet. -/
theorem test_witness_FetchIsBigEndian :
    (State.reset.setPc 0xFFE).pc.toNat + 1 ≤ 0xFFF ∧ 0xFFF < (State.reset.setPc 0xFFF).pc.toNat + 1 := by
  decide

/-- StepRunsDecodedInstruction. -/
theorem test_witness_StepRunsDecodedInstruction :
    (placed 0x8014).halted = false ∧ (placed 0x8014).fetchWord = some 0x8014 ∧
      decodeWord 0x8014 = some (.addReg 0 1) := by decide

/-- FetchSeesStoredWord: the last address a word can be fetched from. -/
theorem test_witness_FetchSeesStoredWord :
    (State.reset.setPc 0xFFE).memory.wf = true ∧ (State.reset.setPc 0xFFE).pc.toNat + 1 ≤ 0xFFF := by decide

/-- PlacedInstructionRuns: canonical memory, and a state that cannot fetch. -/
theorem test_witness_PlacedInstructionRuns : atBounds.memory.wf = true ∧ faulted.memory.wf = true := by decide

/-- TickFaultsExactlyAsRuled has no hypothesis: its four cases all occur. -/
theorem test_witness_tickFault_cases :
    tickFault faulted = some ⟨.stackUnderflow, 0x200, 0x00EE⟩ ∧
    tickFault atBounds = some ⟨.memoryOutOfBounds, 0x10FE, 0⟩ ∧
    tickFault State.reset = some ⟨.unimplementedOpcode, 0x200, 0⟩ ∧
    tickFault (withSp (placed 0x2300) 16) = some ⟨.stackOverflow, 0x200, 0x2300⟩ ∧
    tickFault (placed 0x2300) = none := by decide

/-- HaltedTickReturnsLatchedFault. -/
theorem test_witness_HaltedTick : faulted.fault = some ⟨.stackUnderflow, 0x200, 0x00EE⟩ := by decide

/-- OnlyResetClearsHalt. -/
theorem test_witness_OnlyResetClearsHalt : faulted.halted = true := by decide

/-- InstructionsWriteOnlyTheirState: the hypotheses of every clause, on `ADD V0,V1` and on `JP`. -/
theorem test_witness_InstructionsWriteOnlyTheirState :
    let i := Instr.addReg 0 1
    exec i State.reset = .next (State.reset.setRegFlag 0 0 false) ∧ i.writesReg 2 = false ∧ i.writesPc = false ∧
      handlerFault i State.reset = none ∧ i.writesI = false ∧ i.writesStack = false ∧ (∀ x, i ≠ .ldDtVx x) ∧
      (∀ x, i ≠ .ldStVx x) ∧ i.writesFb = false ∧ i.writesMemory = false :=
  ⟨next_of_after (by decide), by decide +kernel⟩

/-- FlagWritersLeaveZeroOrOne: both clauses. -/
theorem test_witness_FlagWriters :
    (Instr.addReg 15 1).writesFlag = true ∧ handlerFault (.addReg 15 1) State.reset = none ∧
    (Instr.drw 0 1 1).writesFlag = true ∧ handlerFault (.drw 0 1 1) (State.reset.setI 0xFFF) = none ∧
    (Instr.addByte 1 5).writesFlag = false ∧ (Instr.addByte 1 5).writesReg 15 = false ∧
    exec (.addByte 1 5) State.reset = .next (State.reset.setReg 1 5) :=
  ⟨rfl, by decide +kernel, rfl, by decide +kernel, rfl, rfl, next_of_after (by decide)⟩

/-- SoundTimerIsNeverRead: a step that writes `ST`. -/
theorem test_witness_SoundTimerIsNeverRead :
    step (placed 0xF118) = .next ((placed 0xF118).setPc 0x202) := next_of_after (by decide)

/-- CallPushesReturnAddress and ReturnResumesAfterCall: the last free slot. -/
theorem test_witness_CallPushes : (withSp State.reset 15).sp.val ≠ 16 := by decide

/-- ReturnPopsNewestAddress: one live entry, and all sixteen. -/
theorem test_witness_ReturnPops : (withSp State.reset 1).sp.val ≠ 0 ∧ (withSp State.reset 16).sp.val ≠ 0 := by decide

/-- StackFaultsChangeOnlyTheLatch: both clauses. -/
theorem test_witness_StackFaults : (withSp State.reset 16).sp.val = 16 ∧ State.reset.sp.val = 0 := by decide

/-- AddSetsCarry, SubSetsNoBorrow, SubnSetsNoBorrow, ShrShiftsOutBitZero, ShlShiftsOutBitSeven and the register
statements: the inner hypotheses `x ≠ 15`, `r ≠ x`, `r ≠ 15`. -/
theorem test_witness_registers : (14 : Reg) ≠ 15 ∧ (0 : Reg) ≠ 14 ∧ (0 : Reg) ≠ 15 := by decide

/-- BcdWritesThreeDigits: the highest `I` in range, and the bytes outside the three. -/
theorem test_witness_Bcd :
    (State.reset.setI 0xFFD).memory.wf = true ∧ (State.reset.setI 0xFFD).I.toNat + 2 ≤ 0xFFF ∧
      0xFFC < (State.reset.setI 0xFFD).I.toNat := by decide

/-- StoreBlockWritesRegisters and LoadBlockReadsRegisters: sixteen registers up to 0xFFF. -/
theorem test_witness_blocks :
    (State.reset.setI 0xFF0).memory.wf = true ∧ (State.reset.setI 0xFF0).I.toNat + (15 : Reg).toNat ≤ 0xFFF ∧
      (State.reset.setI 0xFFF).I.toNat + (0 : Reg).toNat ≤ 0xFFF ∧ (0 : Reg).toNat ≤ (15 : Reg).toNat ∧
      (0 : Reg).toNat < (1 : Reg).toNat := by decide

/-- OutOfRangeAccessChangesOnlyTheLatch: each of the four instructions at the first `I` out of range. -/
theorem test_witness_OutOfRange :
    handlerFault (.drw 0 0 1) (State.reset.setI 0x1000) = some .memoryOutOfBounds ∧
    handlerFault (.ldB 0) (State.reset.setI 0xFFE) = some .memoryOutOfBounds ∧
    handlerFault (.storeRegs 15) (State.reset.setI 0xFF1) = some .memoryOutOfBounds ∧
    handlerFault (.loadRegs 1) (State.reset.setI 0xFFF) = some .memoryOutOfBounds := by decide

/-- DrawTogglesWhereSpriteHits and DrawTwiceRestores: an empty sprite beyond memory, and the last byte of memory. -/
theorem test_witness_Draw :
    ((0 : Nibble).toNat = 0 ∨ (State.reset.setI 0x1000).I.toNat + (0 : Nibble).toNat - 1 ≤ 0xFFF) ∧
    ((1 : Nibble).toNat = 0 ∨ (State.reset.setI 0xFFF).I.toNat + (1 : Nibble).toNat - 1 ≤ 0xFFF) ∧
    ((15 : Nibble).toNat = 0 ∨ (State.reset.setI 0xFF1).I.toNat + (15 : Nibble).toNat - 1 ≤ 0xFFF) := by
  decide

/-- SkipsOnKey: the index is the low nibble. -/
theorem test_witness_SkipsOnKey : (5 : BitVec 4).toNat = ((State.reset.setReg 1 0x15).reg 1).toNat % 16 := by
  decide

/-- KeyWaitTakesLowestKey: key 15 alone is down; no key is down. -/
theorem test_witness_KeyWait :
    (State.reset.setKey 15 true).keyDown 15 = true ∧
    (∀ j : BitVec 4, j.toNat < (15 : BitVec 4).toNat → (State.reset.setKey 15 true).keyDown j = false) ∧
    (∀ k : BitVec 4, State.reset.keyDown k = false) := by decide

/-- KeyWaitTickChangesNothing. -/
theorem test_witness_KeyWaitTick :
    (placed 0xF30A).halted = false ∧ (placed 0xF30A).fetchWord = some (0xF#4 ++ (3 : Reg) ++ 0x0A#8) ∧
    ∀ k : BitVec 4, (placed 0xF30A).keyDown k = false := by decide

/-- LoadCopiesRom: the longest ROM that fits, the empty one, and a halted machine. -/
theorem test_witness_LoadCopiesRom :
    faulted.memory.wf = true ∧ (List.replicate 3584 (0xFF : Byte)).length ≤ 3584 ∧
      ([] : List Byte).length ≤ 3584 := by
  rw [List.length_replicate]; decide +kernel

/-- LoadTooLargeHalts: one byte more. -/
theorem test_witness_LoadTooLarge : 3584 < (List.replicate 3585 (0xFF : Byte)).length := by
  rw [List.length_replicate]; decide

/-- DelayTimerCountsCalls: the clocks among other operations, more calls than `DT` counts. -/
theorem test_witness_DelayTimer :
    let ops : List HostOp := [.tickTimers, .keyEvent 3 true, .tickTimers, .snapshot, .load [1]]
    (∀ op ∈ ops, op ≠ .tick ∧ op ≠ .reset) ∧
      (performAll defaultFont ops (State.reset.setDT 1)).DT = 0 := by decide

/-- NormalEndIsFixedPoint (CF2): `JP 0x200` at 0x200. -/
theorem test_witness_NormalEnd : (placed 0x1200).EndedNormally := by
  refine ⟨by decide +kernel, by decide +kernel, by decide +kernel⟩

end Sys2Proof.Tests
end

section
/-! PROOFS. Power-on (spec/00_scope.md R6, spec/10_state.md R26): what the accessors read in `State.powerOn font`. The
plain fields are those of `State.reset` (Laws/State.lean), and memory is `State.readByte_powerOn` (Laws/Memory.lean). -/

namespace Sys2Proof.Machine

variable (font : Config.Font)

@[simp] theorem State.reg_powerOn (x : Reg) : (State.powerOn font).reg x = 0 :=
  Vector.getElem_replicate x.isLt

theorem State.getElem_stack_powerOn (k : Nat) (h : k < 16) : (State.powerOn font).stack[k] = 0 :=
  Vector.getElem_replicate h

@[simp] theorem State.keyDown_powerOn (k : BitVec 4) : (State.powerOn font).keyDown k = false :=
  Vector.getElem_replicate k.isLt

@[simp] theorem State.pixel_powerOn (k : Nat) : (State.powerOn font).pixel k = false :=
  Framebuffer.get_blank k

@[simp] theorem State.halted_powerOn : (State.powerOn font).halted = false := rfl

theorem State.readByte_powerOn_font {a : Nat} (h : a < 80) : (State.powerOn font).readByte a = font[a] := by
  rw [State.readByte_powerOn, dif_pos h]

theorem State.readByte_powerOn_above {a : Nat} (h : 80 ≤ a) : (State.powerOn font).readByte a = 0 := by
  rw [State.readByte_powerOn, dif_neg (by omega)]

end Sys2Proof.Machine

namespace Sys2Proof.Proofs

open Sys2Proof.Machine

/-- Settles O1: each plain field keeps its reset value, because the font's bytes go to memory only; registers, stack,
keys, pixels and memory are read by the lemmas above. -/
theorem resetLeavesPowerOnState : Obligations.ResetLeavesPowerOnState := by
  refine ⟨fun font => ?atPowerOn, State.powerOn_defaultFont.symm⟩
  case atPowerOn =>
    exact ⟨State.pc_powerOn font, State.reg_powerOn font, State.I_powerOn font, State.sp_powerOn font,
      State.getElem_stack_powerOn font, State.DT_powerOn font, State.ST_powerOn font, State.keyDown_powerOn font,
      fun k _ => State.pixel_powerOn font k, fun _ h => State.readByte_powerOn_font font h,
      fun _ h _ => State.readByte_powerOn_above font h, State.halted_powerOn font⟩

end Sys2Proof.Proofs
end

section
/-! PROOFS. The state (spec/10_state.md R12, R13, R27): a handler either faults or writes only what the access matrix
gives its instruction, and the invariant at reset and across a `Tick`. -/

namespace Sys2Proof.Machine

/-! ### The fault condition of a handler is the test the handler makes (R44, R162, R163) -/

/-- A condition that is the opposite of "the access is in bounds" gives the fault of the failed access. -/
theorem boundsFault_eq {P : Prop} [Decidable P] {a n : Nat} (h : P ↔ ¬ (n = 0 ∨ a + n ≤ 4096)) (k : FaultKind) :
    (if P then some k else none) = if accessOk a n then none else some k := by
  rw [← accessOk_iff] at h
  simp only [h, ite_not]

theorem handlerFault_drw (x y : Reg) (n : Nibble) (s : State) :
    handlerFault (.drw x y n) s = if accessOk s.I.toNat n.toNat then none else some .memoryOutOfBounds :=
  boundsFault_eq (by omega) _

theorem handlerFault_ldB (x : Reg) (s : State) :
    handlerFault (.ldB x) s = if accessOk s.I.toNat 3 then none else some .memoryOutOfBounds :=
  boundsFault_eq (by omega) _

theorem handlerFault_storeRegs (x : Reg) (s : State) :
    handlerFault (.storeRegs x) s = if accessOk s.I.toNat (x.toNat + 1) then none else some .memoryOutOfBounds :=
  boundsFault_eq (by omega) _

theorem handlerFault_loadRegs (x : Reg) (s : State) :
    handlerFault (.loadRegs x) s = if accessOk s.I.toNat (x.toNat + 1) then none else some .memoryOutOfBounds :=
  boundsFault_eq (by omega) _

theorem handlerFault_ret_eq_none {s : State} : handlerFault .ret s = none ↔ 0 < s.sp.val := by
  simp [handlerFault, Nat.pos_iff_ne_zero]

theorem handlerFault_call_eq_none {nnn : Addr12} {s : State} :
    handlerFault (.call nnn) s = none ↔ s.sp.val < 16 := by
  have := s.sp.isLt
  simp only [handlerFault, ite_eq_right_iff, reduceCtorEq, imp_false]
  omega

/-! ### The six instructions that can fault, each as `handlerFault` decides -/

/-- An access whose fault condition is `handlerFault`. -/
theorem State.accessing_eq_elim {s : State} {n : Nat} {i : Instr} (done : State)
    (h : handlerFault i s = if accessOk s.I.toNat n then none else some .memoryOutOfBounds) :
    s.accessing n i done = (handlerFault i s).elim done (s.raiseExec · i) := by
  rw [h]
  obtain ⟨ha, he⟩ | ⟨ha, he⟩ := s.accessing_cases n i done <;> simp [ha, he]

theorem exec_drw (x y : Reg) (n : Nibble) (s : State) :
    exec (.drw x y n) s = .next ((handlerFault (.drw x y n) s).elim
      ((s.setFb (s.drawn x y n).fb).setFlag (s.drawn x y n).collision) (s.raiseExec · (.drw x y n))) :=
  congrArg _ (State.accessing_eq_elim _ (handlerFault_drw x y n s))

theorem exec_ldB (x : Reg) (s : State) :
    exec (.ldB x) s = .next ((handlerFault (.ldB x) s).elim
      (s.writeBytes s.I.toNat (bcdDigits (s.reg x))) (s.raiseExec · (.ldB x))) :=
  congrArg _ (State.accessing_eq_elim _ (handlerFault_ldB x s))

theorem exec_storeRegs (x : Reg) (s : State) :
    exec (.storeRegs x) s = .next ((handlerFault (.storeRegs x) s).elim
      (s.writeBytes s.I.toNat (s.regsUpTo x)) (s.raiseExec · (.storeRegs x))) :=
  congrArg _ (State.accessing_eq_elim _ (handlerFault_storeRegs x s))

theorem exec_loadRegs (x : Reg) (s : State) :
    exec (.loadRegs x) s = .next ((handlerFault (.loadRegs x) s).elim
      (s.loadRegsFrom s.I.toNat x) (s.raiseExec · (.loadRegs x))) :=
  congrArg _ (State.accessing_eq_elim _ (handlerFault_loadRegs x s))

theorem exec_ret_of_pos (s : State) (h : 0 < s.sp.val) :
    exec .ret s = .next (State.setPc { s with sp := ⟨s.sp.val - 1, by have := s.sp.isLt; omega⟩ }
      (s.stack[s.sp.val - 1]'(by have := s.sp.isLt; omega))) := by
  simp only [exec, execRet, s.pop_some h]

theorem exec_call_of_lt (nnn : Addr12) (s : State) (h : s.sp.val < 16) :
    exec (.call nnn) s = .next (State.setPc
      { s with stack := s.stack.set s.sp.val s.pc h, sp := ⟨s.sp.val + 1, by omega⟩ } (zextAddr nnn)) := by
  simp only [exec, execCall, s.push_some s.pc h]

/-- A handler that faults rolls `pc` back and latches the record (R165, decision D9). -/
theorem exec_of_handlerFault {i : Instr} {s : State} {k : FaultKind} (h : handlerFault i s = some k) :
    exec i s = .next (s.raiseExec k i) := by
  cases i with
  | ret =>
    obtain ⟨hsp, rfl⟩ : s.sp.val = 0 ∧ FaultKind.stackUnderflow = k := by simpa [handlerFault] using h
    simp only [exec, execRet, s.pop_none hsp]
  | call nnn =>
    obtain ⟨hsp, rfl⟩ : s.sp.val = 16 ∧ FaultKind.stackOverflow = k := by simpa [handlerFault] using h
    simp only [exec, execCall, s.push_none s.pc hsp]
  | drw x y n => rw [exec_drw, h]; rfl
  | ldB x => rw [exec_ldB, h]; rfl
  | storeRegs x => rw [exec_storeRegs, h]; rfl
  | loadRegs x => rw [exec_loadRegs, h]; rfl
  | _ => cases h

/-! ### What an instruction that does not fault writes (R27) -/

/-- `t` differs from `s` only in state the access matrix lets the instruction `i` write. -/
structure WritesOnly (i : Instr) (s t : State) : Prop where
  reg : ∀ r, i.writesReg r = false → t.reg r = s.reg r
  pc : i.writesPc = false → t.pc = s.pc
  I : i.writesI = false → t.I = s.I
  stack : i.writesStack = false → t.stack = s.stack ∧ t.sp = s.sp
  DT : (∀ x, i ≠ .ldDtVx x) → t.DT = s.DT
  ST : (∀ x, i ≠ .ldStVx x) → t.ST = s.ST
  key : t.key = s.key
  fb : i.writesFb = false → t.fb = s.fb
  memory : i.writesMemory = false → t.memory = s.memory
  fault : t.fault = s.fault

namespace WritesOnly

variable {i : Instr} {s t : State}

theorem refl (i : Instr) (s : State) : WritesOnly i s s where
  reg _ _ := rfl
  pc _ := rfl
  I _ := rfl
  stack _ := ⟨rfl, rfl⟩
  DT _ := rfl
  ST _ := rfl
  key := rfl
  fb _ := rfl
  memory _ := rfl
  fault := rfl

theorem setReg (h : WritesOnly i s t) {x : Reg} (hx : i.writesReg x = true) (b : Byte) :
    WritesOnly i s (t.setReg x b) where
  __ := h
  reg r hr := by
    have hne : r ≠ x := by rintro rfl; simp [hx] at hr
    rw [t.reg_setReg_ne hne, h.reg r hr]

theorem setFlag (h : WritesOnly i s t) (hi : i.writesFlag = true) (f : Bool) : WritesOnly i s (t.setFlag f) :=
  h.setReg (by simp [Instr.writesReg, hi]) _

theorem setRegFlag (h : WritesOnly i s t) {x : Reg} (hx : i.writesReg x = true) (hi : i.writesFlag = true)
    (b : Byte) (f : Bool) : WritesOnly i s (t.setRegFlag x b f) :=
  (h.setReg hx b).setFlag hi f

theorem setPc (h : WritesOnly i s t) (hi : i.writesPc = true) (a : Word) : WritesOnly i s (t.setPc a) where
  __ := h
  pc hn := by simp [hi] at hn

theorem skipIf (h : WritesOnly i s t) (hi : i.writesPc = true) (c : Bool) : WritesOnly i s (t.skipIf c) := by
  cases c with
  | false => exact h
  | true => exact h.setPc hi _

theorem setI (h : WritesOnly i s t) (hi : i.writesI = true) (a : Word) : WritesOnly i s (t.setI a) where
  __ := h
  I hn := by simp [hi] at hn

theorem setStack (h : WritesOnly i s t) (hi : i.writesStack = true) (stack : Vector Word 16) (sp : Fin 17) :
    WritesOnly i s { t with stack := stack, sp := sp } where
  __ := h
  stack hn := by simp [hi] at hn

theorem setFb (h : WritesOnly i s t) (hi : i.writesFb = true) (fb : Framebuffer) : WritesOnly i s (t.setFb fb) where
  __ := h
  fb hn := by simp [hi] at hn

theorem writeBytes (h : WritesOnly i s t) (hi : i.writesMemory = true) (a : Nat) (bs : List Byte) :
    WritesOnly i s (t.writeBytes a bs) where
  __ := h
  memory hn := by simp [hi] at hn

theorem draw (h : WritesOnly i s t) : WritesOnly i s t.draw.2 where
  __ := h

theorem setDT (x : Reg) (s : State) (b : Byte) : WritesOnly (.ldDtVx x) s (s.setDT b) where
  __ := refl (.ldDtVx x) s
  DT hn := absurd rfl (hn x)

theorem setST (x : Reg) (s : State) (b : Byte) : WritesOnly (.ldStVx x) s (s.setST b) where
  __ := refl (.ldStVx x) s
  ST hn := absurd rfl (hn x)

/-- A block load writes `V` only, and there only the registers up to `x` (R126). -/
theorem loadRegsFrom (x : Reg) (s : State) (a : Nat) : WritesOnly (.loadRegs x) s (s.loadRegsFrom a x) := by
  have hreg (r : Reg) (hr : (Instr.loadRegs x).writesReg r = false) : (s.loadRegsFrom a x).reg r = s.reg r := by
    have hlt : ¬ r.toNat ≤ x.toNat := by simpa [Instr.writesReg, Instr.writesFlag] using hr
    rw [State.reg_loadRegsFrom, if_neg hlt]
  rw [State.loadRegsFrom_frame] at hreg ⊢
  exact { refl (.loadRegs x) s with reg := hreg }

end WritesOnly

/-- An instruction that does not fault writes only its own state: one rule of `WritesOnly` per update it makes. -/
theorem exec_writesOnly {i : Instr} {s : State} (h : handlerFault i s = none) :
    ∃ t, exec i s = .next t ∧ WritesOnly i s t := by
  have start := WritesOnly.refl i s
  cases i with
  | cls => exact ⟨_, rfl, start.setFb rfl _⟩
  | ret => exact ⟨_, exec_ret_of_pos s (handlerFault_ret_eq_none.1 h), (start.setStack rfl _ _).setPc rfl _⟩
  | call nnn =>
    exact ⟨_, exec_call_of_lt nnn s (handlerFault_call_eq_none.1 h), (start.setStack rfl _ _).setPc rfl _⟩
  | jp | jpV0 => exact ⟨_, rfl, start.setPc rfl _⟩
  | seByte | sneByte | seReg | sneReg | skp | sknp => exact ⟨_, rfl, start.skipIf rfl _⟩
  | ldByte | addByte | ldReg | orReg | andReg | xorReg | ldVxDt =>
    exact ⟨_, rfl, start.setReg (by simp [Instr.writesReg]) _⟩
  | addReg | subReg | shr | subnReg | shl =>
    exact ⟨_, rfl, start.setRegFlag (by simp [Instr.writesReg]) rfl _ _⟩
  | rnd => exact ⟨_, rfl, start.draw.setReg (by simp [Instr.writesReg]) _⟩
  | ldI | addI | ldF => exact ⟨_, rfl, start.setI rfl _⟩
  | drw => exact ⟨_, by rw [exec_drw, h]; rfl, (start.setFb rfl _).setFlag rfl _⟩
  | ldVxK x =>
    simp only [exec, execLdVxK]
    cases s.lowestKey with
    | some k => exact ⟨_, rfl, start.setReg (by simp [Instr.writesReg]) _⟩
    | none => exact ⟨_, rfl, start.setPc rfl _⟩
  | ldDtVx x => exact ⟨_, rfl, .setDT x s _⟩
  | ldStVx x => exact ⟨_, rfl, .setST x s _⟩
  | ldB => exact ⟨_, by rw [exec_ldB, h]; rfl, start.writeBytes rfl _ _⟩
  | storeRegs => exact ⟨_, by rw [exec_storeRegs, h]; rfl, start.writeBytes rfl _ _⟩
  | loadRegs x => exact ⟨_, by rw [exec_loadRegs, h]; rfl, .loadRegsFrom x s _⟩

/-- What `exec_writesOnly` says of a next state already at hand. -/
theorem writesOnly_of_exec {i : Instr} {s t : State} (hf : handlerFault i s = none) (h : exec i s = .next t) :
    WritesOnly i s t := by
  obtain ⟨t', ht', hw⟩ := exec_writesOnly hf
  rwa [Host.Outcome.next.inj (h.symm.trans ht')]

/-- Every way a handler can go: it writes only its own state, or it faults. -/
theorem exec_cases {i : Instr} {s t : State} (h : exec i s = .next t) :
    (handlerFault i s = none ∧ WritesOnly i s t) ∨ ∃ k, handlerFault i s = some k ∧ t = s.raiseExec k i := by
  cases hf : handlerFault i s with
  | none => exact .inl ⟨rfl, writesOnly_of_exec hf h⟩
  | some k => exact .inr ⟨k, rfl, Host.Outcome.next.inj (h.symm.trans (exec_of_handlerFault hf))⟩

/-- A register the instruction does not write keeps its value, fault or not. -/
theorem exec_reg {i : Instr} {s t : State} (h : exec i s = .next t) {r : Reg} (hr : i.writesReg r = false) :
    t.reg r = s.reg r := by
  obtain ⟨-, hw⟩ | ⟨k, -, rfl⟩ := exec_cases h
  · exact hw.reg r hr
  · rfl

/-! ### The flag (R12) -/

/-- An instruction of the six leaves a flag in `VF` when it does not fault. -/
theorem exec_reg_flag {i : Instr} {s : State} (hi : i.writesFlag = true) (h : handlerFault i s = none) :
    ∃ t f, exec i s = .next t ∧ t.reg 15 = flagByte f := by
  cases i with
  | addReg | subReg | shr | subnReg | shl => exact ⟨_, _, rfl, State.reg_setRegFlag_flag s _ _ _⟩
  | drw => exact ⟨_, _, by rw [exec_drw, h]; rfl, State.reg_setReg_self _ 15 _⟩
  | _ => cases hi

/-! ### The invariant (R13, R165) -/

/-- A fault recorded at `pc` keeps the invariant. -/
theorem State.Inv.raise {s : State} (h : s.Inv) (k : FaultKind) (op : Word) : (s.raise k s.pc op).Inv := by
  obtain ⟨hmem, hpc, hstack, -⟩ := h
  refine ⟨hmem, hpc, hstack, fun r hr _ => ?_⟩
  obtain rfl := Option.some.inj hr
  rfl

/-- A state with the plain fields of reset and canonical memory meets the invariant. -/
theorem State.inv_of_reset_fields {s : State} (hmem : s.memory.wf = true) (hpc : s.pc = State.reset.pc)
    (hstack : s.stack = State.reset.stack) (hfault : s.fault = State.reset.fault) : s.Inv := by
  refine ⟨hmem, ?pc, fun k hk => ?stack, fun r hr => ?fault⟩
  case pc => rw [hpc]; decide
  case stack =>
    have hzero : s.stack[k] = 0 := by simp [hstack, State.reset]
    simp [hzero]
  case fault => cases hfault.symm.trans hr

/-- A fetch succeeds only where two bytes lie in memory (R81). -/
theorem State.pc_le_of_fetchWord {s : State} {op : Word} (h : s.fetchWord = some op) : s.pc.toNat ≤ 0xFFE := by
  have hok : accessOk s.pc.toNat 2 = true := by
    by_contra hn
    simp [State.fetchWord, hn] at h
  have := (accessOk_pos (by decide)).1 hok
  omega

theorem toNat_zextAddr_le (nnn : Addr12) : (zextAddr nnn).toNat ≤ 0xFFF := by
  have := nnn.isLt
  simp only [zextAddr, BitVec.toNat_setWidth]
  omega

theorem toNat_jumpOffset_le (v : Byte) (nnn : Addr12) : (jumpOffset v nnn).toNat ≤ 0x10FE := by
  have := v.isLt
  have := nnn.isLt
  simp only [jumpOffset, BitVec.toNat_ofNat]
  omega

/-- A skip from an advanced `pc` stays below 0x1003. -/
theorem State.toNat_pc_skipIf_le (s : State) (c : Bool) (h : s.pc.toNat ≤ 0x1000) :
    (s.skipIf c).pc.toNat ≤ 0x1002 := by
  cases c with
  | false => rw [State.skipIf_false]; omega
  | true => rw [State.skipIf_true, State.pc_setPc]; bv_omega

section NoFault

variable {i : Instr} {s t : State} (hf : handlerFault i s = none) (h : exec i s = .next t)
include hf h

/-- Only a write inside memory changes memory, so the canonical form stays. -/
theorem exec_memory_wf (hmem : s.memory.wf = true) : t.memory.wf = true := by
  cases hi : i.writesMemory with
  | false => rwa [(writesOnly_of_exec hf h).memory hi]
  | true =>
    cases i with
    | ldB x =>
      rw [exec_ldB, hf] at h
      obtain rfl := Host.Outcome.next.inj h
      have hin : s.I.toNat + 3 ≤ 4096 := (accessOk_pos (by decide)).1 (by simpa [handlerFault_ldB] using hf)
      exact Memory.wf_writeList _ hmem hin
    | storeRegs x =>
      rw [exec_storeRegs, hf] at h
      obtain rfl := Host.Outcome.next.inj h
      have hin : s.I.toNat + (x.toNat + 1) ≤ 4096 :=
        (accessOk_pos (by omega)).1 (by simpa [handlerFault_storeRegs] using hf)
      exact Memory.wf_writeList _ hmem (by simpa using hin)
    | _ => cases hi

/-- Only `CALL` writes a stack entry, and what it writes is `pc`. -/
theorem exec_stack_le (hpc : s.pc.toNat ≤ 0x1000)
    (hstack : ∀ (k : Nat) (hk : k < 16), s.stack[k].toNat ≤ 0x1000) (k : Nat) (hk : k < 16) :
    t.stack[k].toNat ≤ 0x1000 := by
  cases hi : i.writesStack with
  | false =>
    obtain ⟨hsame, -⟩ := (writesOnly_of_exec hf h).stack hi
    simpa only [hsame] using hstack k hk
  | true =>
    cases i with
    | ret =>
      rw [exec_ret_of_pos s (handlerFault_ret_eq_none.1 hf)] at h
      obtain rfl := Host.Outcome.next.inj h
      exact hstack k hk
    | call nnn =>
      rw [exec_call_of_lt nnn s (handlerFault_call_eq_none.1 hf)] at h
      obtain rfl := Host.Outcome.next.inj h
      simp only [State.stack_setPc, Vector.getElem_set]
      split
      · exact hpc
      · exact hstack k hk
    | _ => cases hi

/-- The bounds of R13: a jump target, a popped entry, a skip, a wait for a key, or the advanced `pc` itself. -/
theorem exec_pc_le (hlow : 2 ≤ s.pc.toNat) (hpc : s.pc.toNat ≤ 0x1000)
    (hstack : ∀ (k : Nat) (hk : k < 16), s.stack[k].toNat ≤ 0x1000) : t.pc.toNat ≤ 0x10FE := by
  cases hi : i.writesPc with
  | false => rw [(writesOnly_of_exec hf h).pc hi]; omega
  | true =>
    cases i with
    | ret =>
      rw [exec_ret_of_pos s (handlerFault_ret_eq_none.1 hf)] at h
      obtain rfl := Host.Outcome.next.inj h
      have := s.sp.isLt
      exact (hstack (s.sp.val - 1) (by omega)).trans (by decide)
    | call nnn =>
      rw [exec_call_of_lt nnn s (handlerFault_call_eq_none.1 hf)] at h
      obtain rfl := Host.Outcome.next.inj h
      exact (toNat_zextAddr_le nnn).trans (by decide)
    | jp nnn =>
      obtain rfl := Host.Outcome.next.inj h
      exact (toNat_zextAddr_le nnn).trans (by decide)
    | jpV0 nnn =>
      obtain rfl := Host.Outcome.next.inj h
      exact toNat_jumpOffset_le _ nnn
    | seByte | sneByte | seReg | sneReg | skp | sknp =>
      obtain rfl := Host.Outcome.next.inj h
      exact (s.toNat_pc_skipIf_le _ hpc).trans (by decide)
    | ldVxK x =>
      simp only [exec, execLdVxK] at h
      cases hk : s.lowestKey with
      | some k =>
        rw [hk] at h
        obtain rfl := Host.Outcome.next.inj h
        exact hpc.trans (by decide)
      | none =>
        rw [hk] at h
        obtain rfl := Host.Outcome.next.inj h
        rw [State.pc_setPc]
        bv_omega
    | _ => cases hi

end NoFault

/-- A handler run from the advanced `pc` of a fetched word keeps the invariant: a fault changes only the latch, and
without one each clause has its own lemma. -/
theorem State.Inv.of_exec {s t : State} {i : Instr} (hinv : s.Inv) (hrun : s.halted = false)
    (hfetch : s.pc.toNat ≤ 0xFFE) (h : exec i (s.setPc (s.pc + 2)) = .next t) : t.Inv := by
  obtain ⟨hf, hw⟩ | ⟨k, -, rfl⟩ := exec_cases h
  · obtain ⟨hmem, -, hstack, -⟩ := hinv
    have hadv : (s.setPc (s.pc + 2)).pc.toNat = s.pc.toNat + 2 := by rw [State.pc_setPc]; bv_omega
    refine ⟨exec_memory_wf hf h hmem, exec_pc_le hf h (by omega) (by omega) hstack,
      exec_stack_le hf h (by omega) hstack, fun r hr => ?_⟩
    have hlatched : s.fault = some r := hw.fault.symm.trans hr
    simp [State.halted, hlatched] at hrun
  · rw [State.raiseExec_advanced]
    exact hinv.raise k (encode i)

end Sys2Proof.Machine

namespace Sys2Proof.Proofs

open Sys2Proof.Machine

/-- Settles O4: a `Tick` stops where it is, records a fault of the fetch or the decoder at `pc`, or runs a handler. -/
theorem stepKeepsInvariant : Obligations.StepKeepsInvariant := by
  intro s t hinv h
  obtain ⟨-, he⟩ | ⟨-, -, he⟩ | ⟨op, -, -, -, he⟩ | ⟨op, i, hrun, hop, -, he⟩ := step_cases s <;> rw [he] at h
  · exact Host.Outcome.next.inj h ▸ hinv
  · exact Host.Outcome.next.inj h ▸ hinv.raise _ _
  · exact Host.Outcome.next.inj h ▸ hinv.raise _ _
  · exact hinv.of_exec hrun (State.pc_le_of_fetchWord hop) h

/-- Settles O20: the frame of a handler that does not fault is `WritesOnly`; one that faults changes `pc` and the
latch alone, and the clauses on these two exclude it. -/
theorem instructionsWriteOnlyTheirState : Obligations.InstructionsWriteOnlyTheirState := by
  intro i s t h
  obtain ⟨-, hw⟩ | ⟨k, hk, rfl⟩ := exec_cases h
  · exact ⟨hw.reg, fun hi _ => hw.pc hi, hw.I, hw.stack, hw.DT, hw.ST, hw.key, hw.fb,
      fun hi a => congrArg (Memory.read · a) (hw.memory hi), fun _ => hw.fault⟩
  · have hfaults : handlerFault i s ≠ none := by simp [hk]
    exact ⟨fun _ _ => rfl, fun _ hn => absurd hn hfaults, fun _ => rfl, fun _ => ⟨rfl, rfl⟩, fun _ => rfl,
      fun _ => rfl, rfl, fun _ => rfl, fun _ _ => rfl, fun hn => absurd hn hfaults⟩

/-- Settles O21: the six write a flag byte to `VF` last; for the others `VF` is a register they do not write. -/
theorem flagWritersLeaveZeroOrOne : Obligations.FlagWritersLeaveZeroOrOne := by
  refine ⟨fun i s hi hf => ?_, fun i s t _ hr h => exec_reg h hr⟩
  obtain ⟨t, f, ht, hflag⟩ := exec_reg_flag hi hf
  exact ⟨t, ht, hflag ▸ flagByte_cases f⟩

/-- Settles O3: power-on with any `FONT` differs from reset in memory only, which is canonical in both. -/
theorem resetMeetsInvariant : Obligations.ResetMeetsInvariant :=
  ⟨State.inv_of_reset_fields Memory.wf_reset rfl rfl rfl,
    fun font => State.inv_of_reset_fields (Memory.wf_powerOn font) rfl rfl rfl⟩

end Sys2Proof.Proofs
end

section
/-! PROOFS. Memory (spec/20_memory.md R40 to R52): canonical memories are equal when they read alike, and the fetch
reads the two bytes at `pc`, the high byte first. -/

namespace Sys2Proof

/-! ### A word and its two bytes (R45) -/

@[simp] theorem extractLsb'_high_bigEndian (b0 b1 : Byte) : (bigEndian b0 b1).extractLsb' 8 8 = b0 :=
  BitVec.extractLsb'_append_eq_left

@[simp] theorem extractLsb'_low_bigEndian (b0 b1 : Byte) : (bigEndian b0 b1).extractLsb' 0 8 = b1 :=
  BitVec.extractLsb'_append_eq_right

@[simp] theorem bigEndian_extractLsb' (w : Word) : bigEndian (w.extractLsb' 8 8) (w.extractLsb' 0 8) = w :=
  BitVec.extractLsb'_append_extractLsb'

@[simp] theorem length_wordBytes (w : Word) : (wordBytes w).length = 2 := rfl

namespace Machine

/-! ### The canonical form is determined by the reads (R40) -/

theorem Memory.wfFrom_cons {lo a : Nat} {b : Byte} {m : Memory} :
    Memory.wfFrom lo ((a, b) :: m) = true ↔
      lo ≤ a ∧ a ≤ 0xFFF ∧ b ≠ initialByte a ∧ m.wfFrom (a + 1) = true := by
  simp only [Memory.wfFrom, Bool.and_eq_true, decide_eq_true_eq, and_assoc]

@[simp] theorem Memory.read_cons_self (a : Nat) (b : Byte) (m : Memory) : Memory.read ((a, b) :: m) a = b :=
  if_pos rfl

/-- A listed cell is seen by a read: its byte is not what an unlisted address reads as. -/
theorem Memory.read_head_ne_initialByte {lo a : Nat} {b : Byte} {m : Memory}
    (hm : Memory.wfFrom lo ((a, b) :: m) = true) : Memory.read ((a, b) :: m) a ≠ initialByte a := by
  obtain ⟨-, -, hb, -⟩ := Memory.wfFrom_cons.1 hm
  rwa [Memory.read_cons_self]

/-- A read that sees a listed cell is at or above the first listed address. -/
theorem Memory.head_le_of_read_ne {lo a c : Nat} {b : Byte} {m : Memory}
    (hm : Memory.wfFrom lo ((a, b) :: m) = true) (hc : Memory.read ((a, b) :: m) c ≠ initialByte c) : a ≤ c := by
  obtain ⟨-, ha, hb, hrest⟩ := Memory.wfFrom_cons.1 hm
  by_contra hlt
  exact hc (Memory.read_below (Memory.wfFrom_cons.2 ⟨le_rfl, ha, hb, hrest⟩) (by omega))

/-- Dropping the first cell changes the read at its address only. -/
theorem Memory.read_tail {lo a : Nat} {b : Byte} {m : Memory} (hm : Memory.wfFrom lo ((a, b) :: m) = true) (c : Nat) :
    m.read c = if c = a then initialByte a else Memory.read ((a, b) :: m) c := by
  obtain ⟨-, -, -, hrest⟩ := Memory.wfFrom_cons.1 hm
  split
  · next hc => rw [hc, Memory.read_below hrest (by omega)]
  · next hc => exact (if_neg hc).symm

/-- Each list's first address is the lowest one whose read differs from the reset contents, so equal reads give equal
first cells, and the tails are equal by induction. -/
theorem Memory.eq_of_read_eq {m m' : Memory} {lo lo' : Nat} (hm : m.wfFrom lo = true) (hm' : m'.wfFrom lo' = true)
    (h : ∀ a, m.read a = m'.read a) : m = m' := by
  induction m generalizing m' lo lo' with
  | nil =>
    cases m' with
    | nil => rfl
    | cons c' rest' => exact absurd (h c'.1).symm (Memory.read_head_ne_initialByte hm')
  | cons c rest ih =>
    obtain ⟨a, b⟩ := c
    have hseen := Memory.read_head_ne_initialByte hm
    cases m' with
    | nil => exact absurd (h a) hseen
    | cons c' rest' =>
      obtain ⟨a', b'⟩ := c'
      have hseen' := Memory.read_head_ne_initialByte hm'
      obtain rfl : a = a' :=
        Nat.le_antisymm (Memory.head_le_of_read_ne hm (h a' ▸ hseen')) (Memory.head_le_of_read_ne hm' (h a ▸ hseen))
      obtain rfl : b = b' := by simpa using h a
      have htail (c : Nat) : Memory.read rest c = Memory.read rest' c := by
        rw [Memory.read_tail hm, Memory.read_tail hm', h]
      obtain ⟨-, -, -, hrest⟩ := Memory.wfFrom_cons.1 hm
      obtain ⟨-, -, -, hrest'⟩ := Memory.wfFrom_cons.1 hm'
      rw [ih hrest hrest' htail]

/-! ### The fetch (R45, R52, R81) -/

theorem State.fetchWord_of_le {s : State} (h : s.pc.toNat + 1 ≤ 0xFFF) :
    s.fetchWord = some (bigEndian (s.readByte s.pc.toNat) (s.readByte (s.pc.toNat + 1))) :=
  if_pos ((accessOk_pos (by decide)).2 (by omega))

theorem State.fetchWord_of_gt {s : State} (h : 0xFFF < s.pc.toNat + 1) : s.fetchWord = none :=
  if_neg fun hok => by
    have := (accessOk_pos (by decide)).1 hok
    omega

/-- The word fetched is the one whose two bytes memory holds at `pc`. -/
theorem State.fetchWord_eq_some {s : State} {w : Word} (hpc : s.pc.toNat + 1 ≤ 0xFFF)
    (hhigh : s.readByte s.pc.toNat = w.extractLsb' 8 8) (hlow : s.readByte (s.pc.toNat + 1) = w.extractLsb' 0 8) :
    s.fetchWord = some w := by
  rw [State.fetchWord_of_le hpc, hhigh, hlow, bigEndian_extractLsb']

/-- The two bytes of a word, written where `pc` points, are the bytes of the next fetch. -/
theorem State.fetchWord_writeBytes_wordBytes {s : State} (w : Word) (hmem : s.memory.wf = true)
    (hpc : s.pc.toNat + 1 ≤ 0xFFF) : (s.writeBytes s.pc.toNat (wordBytes w)).fetchWord = some w := by
  have hin : s.pc.toNat + (wordBytes w).length ≤ 4096 := by rw [length_wordBytes]; omega
  exact State.fetchWord_eq_some hpc (Memory.read_writeList_inside (wordBytes w) hmem hin 0 (by simp))
    (Memory.read_writeList_inside (wordBytes w) hmem hin 1 (by simp))

end Machine

end Sys2Proof

namespace Sys2Proof.Proofs

open Sys2Proof.Machine

/-- Settles O6: both lists are canonical from address 0 on. -/
theorem canonicalMemoriesAreEqualByReads : Obligations.CanonicalMemoriesAreEqualByReads :=
  fun _ _ => Memory.eq_of_read_eq

/-- Settles O15: the two bytes stored are those of `wordBytes`. -/
theorem fetchSeesStoredWord : Obligations.FetchSeesStoredWord :=
  fun _ => State.fetchWord_writeBytes_wordBytes

/-- Settles O46: a fault of the range is one of the faults a handler rolls back from. -/
theorem outOfRangeAccessChangesOnlyTheLatch : Obligations.OutOfRangeAccessChangesOnlyTheLatch := by
  intro i s h
  rw [exec_of_handlerFault h, State.raiseExec_eq]

/-- Settles O13: the halves of the big-endian word are its two bytes, and beyond 0xFFE there is none. -/
theorem fetchIsBigEndian : Obligations.FetchIsBigEndian := by
  refine fun s => ⟨fun h => ?within, State.fetchWord_of_gt⟩
  case within =>
    exact ⟨_, State.fetchWord_of_le h, extractLsb'_high_bigEndian _ _, extractLsb'_low_bigEndian _ _⟩

end Sys2Proof.Proofs
end

section
/-! PROOFS. Encoding (spec/30_encoding.md R60 to R70): a row's key fixes the bits of a word under the row's mask and the
operands are the bits outside it, so words and instructions correspond one to one, and the illegal words are told by
the part of the word that the mask of their family keeps. -/

namespace Sys2Proof

/-! ### Fields read through a mask (R61, R64) -/

/-- Where the mask is all ones a field of the word is the same field of the masked word. -/
theorem extractLsb'_eq_of_and_eq {op m k : Word} {start len : Nat} (h : op &&& m = k)
    (hm : m.extractLsb' start len = BitVec.allOnes len) : op.extractLsb' start len = k.extractLsb' start len := by
  rw [← h, BitVec.extractLsb'_and, hm, BitVec.and_allOnes]

/-- Every dispatch mask keeps the family digit. -/
theorem extractLsb'_dispatchMask (d : Nibble) : (dispatchMask d).extractLsb' 12 4 = BitVec.allOnes 4 := by
  decide +revert

@[simp] theorem opFamily_dispatchKey (op : Word) : opFamily (dispatchKey op) = opFamily op :=
  (extractLsb'_eq_of_and_eq rfl (extractLsb'_dispatchMask _)).symm

/-! ### A word is its fields (R61 to R63) -/

theorem opFamily_append_opNNN (op : Word) : opFamily op ++ opNNN op = op :=
  BitVec.extractLsb'_append_extractLsb'

theorem opFamily_append_opX_append_opNN (op : Word) : opFamily op ++ opX op ++ opNN op = op := by
  rw [append_assoc_byte]
  exact (congrArg (opFamily op ++ ·) (BitVec.extractLsb'_append_extractLsb'_eq_extractLsb' rfl)).trans
    (opFamily_append_opNNN op)

theorem opFamily_append_opX_append_opY_append_opN (op : Word) :
    opFamily op ++ opX op ++ opY op ++ opN op = op := by
  rw [append_assoc_nibbles]
  exact (congrArg (opFamily op ++ opX op ++ ·) (BitVec.extractLsb'_append_extractLsb'_eq_extractLsb' rfl)).trans
    (opFamily_append_opX_append_opNN op)

/-! ### A word that matches a row's key under the row's mask, format by format (R62, R66) -/

section Formats

variable {op k : Word}

theorem key_eq_of_and_FFFF (h : op &&& 0xFFFF = k) : k = op :=
  h.symm.trans BitVec.and_allOnes

theorem append_addr_of_and_F000 (h : op &&& 0xF000 = k) : opFamily k ++ opNNN op = op := by
  have hfam : opFamily op = opFamily k := extractLsb'_eq_of_and_eq h rfl
  rw [← hfam, opFamily_append_opNNN]

theorem append_imm_of_and_F000 (h : op &&& 0xF000 = k) : opFamily k ++ opX op ++ opNN op = op := by
  have hfam : opFamily op = opFamily k := extractLsb'_eq_of_and_eq h rfl
  rw [← hfam, opFamily_append_opX_append_opNN]

theorem append_sprite_of_and_F000 (h : op &&& 0xF000 = k) :
    opFamily k ++ opX op ++ opY op ++ opN op = op := by
  have hfam : opFamily op = opFamily k := extractLsb'_eq_of_and_eq h rfl
  rw [← hfam, opFamily_append_opX_append_opY_append_opN]

theorem append_regs_of_and_F00F (h : op &&& 0xF00F = k) :
    opFamily k ++ opX op ++ opY op ++ opN k = op := by
  have hfam : opFamily op = opFamily k := extractLsb'_eq_of_and_eq h rfl
  have hlast : opN op = opN k := extractLsb'_eq_of_and_eq h rfl
  rw [← hfam, ← hlast, opFamily_append_opX_append_opY_append_opN]

theorem append_reg_of_and_F0FF (h : op &&& 0xF0FF = k) : opFamily k ++ opX op ++ opNN k = op := by
  have hfam : opFamily op = opFamily k := extractLsb'_eq_of_and_eq h rfl
  have hlast : opNN op = opNN k := extractLsb'_eq_of_and_eq h rfl
  rw [← hfam, ← hlast, opFamily_append_opX_append_opNN]

end Formats

/-! ### The Dispatch Table (R64 to R66) -/

/-- Every row's mask is the dispatch mask of its key's family. -/
theorem mask_eq_dispatchMask : ∀ r ∈ opcodeTable, r.mask = dispatchMask (opFamily r.key) := by
  decide

/-- A row's own mask and the mask of the word's family match the same words (R65): either match makes the word's
family the key's. -/
theorem and_mask_eq_key_iff {r : OpcodeRow} (hr : r ∈ opcodeTable) (op : Word) :
    op &&& r.mask = r.key ↔ r.key = dispatchKey op := by
  rw [mask_eq_dispatchMask r hr]
  constructor <;> intro h
  · have hfam : opFamily op = opFamily r.key := extractLsb'_eq_of_and_eq h (extractLsb'_dispatchMask _)
    rw [dispatchKey, hfam, h]
  · rw [h, opFamily_dispatchKey, dispatchKey]

theorem decodeWord_of_key {op k : Word} {r : OpcodeRow} (hkey : dispatchKey op = k)
    (hrow : opcodeTable.find? (fun r => r.key == k) = some r) : decodeWord op = some (r.build op) := by
  rw [decodeWord, dispatchRow, hkey, hrow, Option.map_some]

/-- A word that decodes matches a row under the row's mask, and the row builds the instruction. -/
theorem exists_row_of_decodeWord {op : Word} {i : Instr} (h : decodeWord op = some i) :
    ∃ r ∈ opcodeTable, op &&& r.mask = r.key ∧ r.build op = i := by
  obtain ⟨r, hrow, hbuild⟩ := Option.map_eq_some_iff.1 h
  have hmem := List.mem_of_find?_eq_some hrow
  have hkey : (r.key == dispatchKey op) = true :=
    List.find?_some (p := fun r : OpcodeRow => r.key == dispatchKey op) hrow
  exact ⟨r, hmem, (and_mask_eq_key_iff hmem op).2 (beq_iff_eq.1 hkey), hbuild⟩

/-! ### Decode of encode (R63, R66) -/

/-- By the formats of R62: the key of the format finds the row, and the operands are read back from their fields. -/
theorem decodeWord_encode (i : Instr) : decodeWord (encode i) = some i := by
  cases i with
  | cls | ret => rfl
  | jp nnn | call nnn | ldI nnn | jpV0 nnn =>
    exact (decodeWord_of_key (dispatchKey_addr _ nnn rfl) rfl).trans (by simp)
  | seByte x nn | sneByte x nn | ldByte x nn | addByte x nn | rnd x nn =>
    exact (decodeWord_of_key (dispatchKey_imm _ x nn rfl) rfl).trans (by simp)
  | drw x y n =>
    exact (decodeWord_of_key (dispatchKey_sprite _ x y n rfl) rfl).trans (by simp)
  | seReg x y | sneReg x y | ldReg x y | orReg x y | andReg x y | xorReg x y | addReg x y | subReg x y | shr x y
  | subnReg x y | shl x y =>
    exact (decodeWord_of_key (dispatchKey_regs _ x y _ rfl) rfl).trans (by simp)
  | skp x | sknp x | ldVxDt x | ldVxK x | ldDtVx x | ldStVx x | addI x | ldF x | ldB x | storeRegs x | loadRegs x =>
    exact (decodeWord_of_key (dispatchKey_reg _ x _ rfl) rfl).trans (by simp)

/-! ### Encode of decode (R63, R69) -/

/-- If the word matches the row, the instruction the row builds from it has that word. -/
def OpcodeRow.KeepsWord (op : Word) (r : OpcodeRow) : Prop := op &&& r.mask = r.key → encode (r.build op) = op

theorem keepsWord_opcodeRowsControl (op : Word) : ∀ r ∈ opcodeRowsControl, r.KeepsWord op := by
  simp only [opcodeRowsControl, List.forall_mem_cons]
  exact ⟨key_eq_of_and_FFFF, key_eq_of_and_FFFF, append_addr_of_and_F000, append_addr_of_and_F000,
    append_imm_of_and_F000, append_imm_of_and_F000, append_regs_of_and_F00F, append_regs_of_and_F00F,
    List.forall_mem_nil _⟩

theorem keepsWord_opcodeRowsAlu (op : Word) : ∀ r ∈ opcodeRowsAlu, r.KeepsWord op := by
  simp only [opcodeRowsAlu, List.forall_mem_cons]
  exact ⟨append_imm_of_and_F000, append_imm_of_and_F000, append_regs_of_and_F00F, append_regs_of_and_F00F,
    append_regs_of_and_F00F, append_regs_of_and_F00F, append_regs_of_and_F00F, append_regs_of_and_F00F,
    append_regs_of_and_F00F, append_regs_of_and_F00F, append_regs_of_and_F00F, List.forall_mem_nil _⟩

theorem keepsWord_opcodeRowsRest (op : Word) : ∀ r ∈ opcodeRowsRest, r.KeepsWord op := by
  simp only [opcodeRowsRest, List.forall_mem_cons]
  exact ⟨append_addr_of_and_F000, append_addr_of_and_F000, append_imm_of_and_F000, append_sprite_of_and_F000,
    append_reg_of_and_F0FF, append_reg_of_and_F0FF, append_reg_of_and_F0FF, append_reg_of_and_F0FF,
    append_reg_of_and_F0FF, append_reg_of_and_F0FF, append_reg_of_and_F0FF, append_reg_of_and_F0FF,
    append_reg_of_and_F0FF, append_reg_of_and_F0FF, append_reg_of_and_F0FF, List.forall_mem_nil _⟩

theorem keepsWord_opcodeTable (op : Word) : ∀ r ∈ opcodeTable, r.KeepsWord op :=
  List.forall_mem_append.2 ⟨List.forall_mem_append.2 ⟨keepsWord_opcodeRowsControl op, keepsWord_opcodeRowsAlu op⟩,
    keepsWord_opcodeRowsRest op⟩

theorem encode_of_decodeWord {op : Word} {i : Instr} (h : decodeWord op = some i) : encode i = op := by
  obtain ⟨r, hmem, hmatch, rfl⟩ := exists_row_of_decodeWord h
  exact keepsWord_opcodeTable op r hmem hmatch

/-! ### The illegal words (R68) -/

/-- The keys of the rows of a family. -/
def familyKeys (d : Nibble) : List Word := (opcodeTable.map OpcodeRow.key).filter (fun k => opFamily k == d)

/-- A word has no instruction exactly when its key is none of its family's. -/
theorem decodeWord_eq_none_iff (op : Word) :
    decodeWord op = none ↔ dispatchKey op ∉ familyKeys (opFamily op) := by
  simp [decodeWord, dispatchRow, familyKeys]

section Family

variable {op : Word} {d : Nibble}

/-- The families whose key is the family digit alone have no illegal word. -/
theorem decodeWord_ne_none_of_mask_F000 (hmask : dispatchMask (opFamily op) = 0xF000) : decodeWord op ≠ none := by
  have hkeys : ∀ d, dispatchMask d = 0xF000 → d ++ 0#12 ∈ familyKeys d := by decide
  have hkey : dispatchKey op = opFamily op ++ 0#12 := by
    conv_lhs => rw [← opFamily_append_opNNN op]
    exact dispatchKey_addr _ _ hmask
  rw [Ne, decodeWord_eq_none_iff, not_not, hkey]
  exact hkeys _ hmask

/-- In the family with mask 0xFFFF the whole word decides. -/
theorem decodeWord_eq_none_iff_word {ws : List Word} (hmask : dispatchMask d = 0xFFFF) (hkeys : familyKeys d = ws)
    (hfam : opFamily op = d) : decodeWord op = none ↔ op ∉ ws := by
  have hkey : dispatchKey op = op := by
    rw [dispatchKey, hfam, hmask]
    exact BitVec.and_allOnes
  rw [decodeWord_eq_none_iff, hfam, hkeys, hkey]

/-- In a family with mask 0xF00F the last nibble decides. -/
theorem decodeWord_eq_none_iff_opN {ns : List Nibble} (hmask : dispatchMask d = 0xF00F)
    (hkeys : familyKeys d = ns.map (d ++ 0#4 ++ 0#4 ++ ·)) (hfam : opFamily op = d) :
    decodeWord op = none ↔ opN op ∉ ns := by
  have hinj : Function.Injective fun n : Nibble => (d ++ 0#4 ++ 0#4 ++ n : Word) :=
    Function.LeftInverse.injective (opN_nibbles d 0 0)
  have hkey : dispatchKey op = d ++ 0#4 ++ 0#4 ++ opN op := by
    conv_lhs => rw [← opFamily_append_opX_append_opY_append_opN op, hfam]
    exact dispatchKey_regs d _ _ _ hmask
  rw [decodeWord_eq_none_iff, hfam, hkeys, hkey, List.mem_map_of_injective hinj]

/-- In a family with mask 0xF0FF the last byte decides. -/
theorem decodeWord_eq_none_iff_opNN {nns : List Byte} (hmask : dispatchMask d = 0xF0FF)
    (hkeys : familyKeys d = nns.map (d ++ 0#4 ++ ·)) (hfam : opFamily op = d) :
    decodeWord op = none ↔ opNN op ∉ nns := by
  have hinj : Function.Injective fun nn : Byte => (d ++ 0#4 ++ nn : Word) :=
    Function.LeftInverse.injective (opNN_byte d 0)
  have hkey : dispatchKey op = d ++ 0#4 ++ opNN op := by
    conv_lhs => rw [← opFamily_append_opX_append_opNN op, hfam]
    exact dispatchKey_reg d _ _ hmask
  rw [decodeWord_eq_none_iff, hfam, hkeys, hkey, List.mem_map_of_injective hinj]

end Family

theorem family_cases (d : Nibble) :
    d = 0x0#4 ∨ d = 0x5#4 ∨ d = 0x8#4 ∨ d = 0x9#4 ∨ d = 0xE#4 ∨ d = 0xF#4 ∨ dispatchMask d = 0xF000 := by
  decide +revert

theorem family_ne_of_mask_F000 {d : Nibble} (hmask : dispatchMask d = 0xF000) :
    d ≠ 0x0#4 ∧ d ≠ 0x5#4 ∧ d ≠ 0x8#4 ∧ d ≠ 0x9#4 ∧ d ≠ 0xE#4 ∧ d ≠ 0xF#4 := by
  decide +revert

/-- The last nibbles that select no row of family 8 are the complement of those that do. -/
theorem not_mem_aluNibbles_iff (n : Nibble) :
    n ∉ [0, 1, 2, 3, 4, 5, 6, 7, (0xE : Nibble)] ↔ n ∈ [0x8, 0x9, 0xA, 0xB, 0xC, 0xD, (0xF : Nibble)] := by
  decide +revert

end Sys2Proof

namespace Sys2Proof.Proofs

/-- Settles O7: the word's key is its row's, and the row takes each operand from the field `encode` put it in. -/
theorem decodeOfEncodeIsIdentity : Obligations.DecodeOfEncodeIsIdentity :=
  fun i _ => decodeWord_encode i

/-- Settles O8: the row's mask fixes every bit of the word that is in no operand. -/
theorem encodeOfDecodeIsIdentity : Obligations.EncodeOfDecodeIsIdentity :=
  fun _ _ => encode_of_decodeWord

/-- Settles O9: the split is on the family, and in each the bits its mask keeps decide. -/
theorem illegalWordsAreExactly : Obligations.IllegalWordsAreExactly := by
  intro op
  rcases family_cases (opFamily op) with h | h | h | h | h | h | hmask
  · simp [decodeWord_eq_none_iff_word (ws := [0x00E0, 0x00EE]) rfl (by decide) h, h]
  · simp [decodeWord_eq_none_iff_opN (ns := [0]) rfl (by decide) h, h]
  · rw [decodeWord_eq_none_iff_opN (ns := [0, 1, 2, 3, 4, 5, 6, 7, 0xE]) rfl (by decide) h, not_mem_aluNibbles_iff]
    simp [h]
  · simp [decodeWord_eq_none_iff_opN (ns := [0]) rfl (by decide) h, h]
  · simp [decodeWord_eq_none_iff_opNN (nns := [0x9E, 0xA1]) rfl (by decide) h, h]
  · simp [decodeWord_eq_none_iff_opNN (nns := [0x07, 0x0A, 0x15, 0x18, 0x1E, 0x29, 0x33, 0x55, 0x65]) rfl
      (by decide) h, h]
  · simp [decodeWord_ne_none_of_mask_F000 hmask, family_ne_of_mask_F000 hmask]

/-- Settles O10: a row's own mask is that of its key's family. -/
theorem rowMasksAgreeWithDispatch : Obligations.RowMasksAgreeWithDispatch := by
  refine ⟨fun op => List.find?_congr fun r hr => ?sameTest, by decide⟩
  case sameTest => exact beq_eq_beq.2 (and_mask_eq_key_iff hr op)

/-- Settles O11: the nine legal words are encoded instructions. -/
theorem sampleWordsDecode : Obligations.SampleWordsDecode :=
  ⟨decodeWord_encode .cls, decodeWord_encode (.call 0xABC), decodeWord_encode (.seByte 0xA 0x7F),
    decodeWord_encode (.subReg 0xA 0xB), decodeWord_encode (.ldI 0xABC), decodeWord_encode (.drw 0xA 0xB 5),
    decodeWord_encode (.sknp 0xA), decodeWord_encode (.ldVxK 0xA), decodeWord_encode (.storeRegs 0xA),
    by decide, by decide⟩

/-- Settles O12: neither shift's meaning reads `y`. -/
theorem shiftsIgnoreY : Obligations.ShiftsIgnoreY :=
  fun _ _ _ _ => ⟨rfl, rfl⟩

end Sys2Proof.Proofs
end

section
/-! PROOFS. The cycle controller (spec/40_cycle_controller.md R80 to R85): what a `Tick` does when it is halted and when
it reaches a handler, and that a word placed with `withFetchWord` is fetched. -/

namespace Sys2Proof.Machine

/-! ### One `Tick`, halted or with a decoded word (R82, R85) -/

theorem State.halted_of_fault {s : State} {r : FaultRecord} (h : s.fault = some r) : s.halted = true :=
  Option.isSome_of_eq_some h

theorem tickWord_of_decodeWord {s : State} {op : Word} {i : Instr} (h : decodeWord op = some i) :
    tickWord s op = exec i (s.setPc (s.pc + 2)) := by
  rw [tickWord, h]

theorem step_of_halted {s : State} (h : s.halted = true) : step s = .next s :=
  if_pos h

theorem step_of_fetchWord {s : State} {op : Word} (hrun : s.halted = false) (hop : s.fetchWord = some op) :
    step s = tickWord s op := by
  rw [step, tick, hrun, hop]
  rfl

theorem step_of_decodeWord {s : State} {op : Word} {i : Instr} (hrun : s.halted = false)
    (hop : s.fetchWord = some op) (hi : decodeWord op = some i) : step s = exec i (s.setPc (s.pc + 2)) :=
  (step_of_fetchWord hrun hop).trans (tickWord_of_decodeWord hi)

/-- What the host gets from a `Tick` is read from the latch of the state it leaves. -/
theorem performTick_of_step {s t : State} (h : step s = .next t) : performTick s = (t, HostResult.ofFault t.fault) := by
  rw [performTick, h]
  rfl

/-! ### A state made able to fetch (R80, R81; log 21) -/

@[simp] theorem State.memory_fetchable (s : State) : s.fetchable.memory = s.memory := rfl

/-- Where `pc` cannot fetch it is moved to 0x200, which can. -/
theorem State.pc_fetchable_le (s : State) : s.fetchable.pc.toNat + 1 ≤ 0xFFF := by
  unfold State.fetchable
  dsimp only
  split
  · next hok =>
    have := (accessOk_pos (by decide)).1 hok
    omega
  · decide

theorem State.withFetchWord_toNat (s : State) (w : Word) :
    s.withFetchWord 16 w.toNat = s.fetchable.writeBytes s.fetchable.pc.toNat (wordBytes w) := by
  rw [State.withFetchWord, BitVec.toNat_mod_cancel, BitVec.ofNat_toNat, BitVec.setWidth_eq]

@[simp] theorem State.halted_withFetchWord (s : State) (nbits w : Nat) : (s.withFetchWord nbits w).halted = false :=
  rfl

theorem State.fetchWord_withFetchWord {s : State} (w : Word) (hmem : s.memory.wf = true) :
    (s.withFetchWord 16 w.toNat).fetchWord = some w := by
  rw [← State.memory_fetchable] at hmem
  rw [State.withFetchWord_toNat]
  exact State.fetchWord_writeBytes_wordBytes w hmem s.pc_fetchable_le

end Sys2Proof.Machine

namespace Sys2Proof.Proofs

open Sys2Proof.Machine

/-- Settles O16: the placed word is fetched from a state that is not halted, and it decodes to the instruction. -/
theorem placedInstructionRuns : Obligations.PlacedInstructionRuns := fun s i hmem =>
  have hrun := s.halted_withFetchWord 16 (encode i).toNat
  ⟨hrun, step_of_decodeWord hrun (State.fetchWord_withFetchWord (encode i) hmem) (decodeWord_encode i)⟩

/-- Settles O14: the handler runs on the state whose `pc` is set 2 further (R82). -/
theorem stepRunsDecodedInstruction : Obligations.StepRunsDecodedInstruction :=
  fun _ _ _ => step_of_decodeWord

/-- Settles O18: the step leaves the halted state as it is, so the latch the host reads is the one it held. -/
theorem haltedTickReturnsLatchedFault : Obligations.HaltedTickReturnsLatchedFault := by
  intro font s r hr
  have hstep : step s = .next s := step_of_halted (State.halted_of_fault hr)
  have htick : performTick s = (s, .err r) := by rw [performTick_of_step hstep, hr, HostResult.ofFault]
  exact ⟨hstep, htick⟩

end Sys2Proof.Proofs
end

section
/-! PROOFS. Control flow (spec/41_control_flow.md R90 to R98): jump targets, where a skip leaves `pc`, and a `RET` after
the push of a `CALL`. -/

namespace Sys2Proof.Machine

/-! ### Where `pc` goes (R90, R92, R97) -/

theorem toNat_zextAddr (nnn : Addr12) : (zextAddr nnn).toNat = nnn.toNat :=
  BitVec.toNat_setWidth_of_le (by decide)

/-- The sum of `JP V0,nnn` never reaches 65536, so its modulo has no effect (decision D7). -/
theorem toNat_jumpOffset (v : Byte) (nnn : Addr12) : (jumpOffset v nnn).toNat = v.toNat + nnn.toNat := by
  have hv := v.isLt
  have hn := nnn.isLt
  rw [jumpOffset, BitVec.toNat_ofNat]
  exact Nat.mod_eq_of_lt (by omega)

/-- `State.skipIf_pc` as numbers (R90). -/
theorem State.toNat_pc_skipIf (s : State) (c : Bool) :
    (s.skipIf c).pc.toNat = if c then (s.pc.toNat + 2) % 65536 else s.pc.toNat := by
  rw [State.skipIf_pc]
  cases c with
  | false => rfl
  | true => exact BitVec.toNat_add s.pc 2

/-- A skip on equality of two bytes (R94, R96). -/
theorem State.toNat_pc_skipIf_beq (s : State) (a b : Byte) :
    (s.skipIf (a == b)).pc.toNat = if a = b then (s.pc.toNat + 2) % 65536 else s.pc.toNat := by
  simp only [State.toNat_pc_skipIf, beq_iff_eq]

/-- A skip on inequality of two bytes: the branches of the other skip, exchanged (R95, R98). -/
theorem State.toNat_pc_skipIf_bne (s : State) (a b : Byte) :
    (s.skipIf (a != b)).pc.toNat = if a = b then s.pc.toNat else (s.pc.toNat + 2) % 65536 := by
  simp only [State.toNat_pc_skipIf, bne_iff_ne, ite_not]

/-! ### Push and pop (R15, R91, R93) -/

/-- A stack that is not full has a free slot. -/
theorem State.sp_lt_of_ne {s : State} (h : s.sp.val ≠ 16) : s.sp.val < 16 :=
  Nat.lt_of_le_of_ne (Nat.le_of_lt_succ s.sp.isLt) h

/-- A `RET` that finds a pushed value on top takes that value and leaves only the slot changed. -/
theorem exec_ret_after_push (s : State) (h : s.sp.val < 16) (v p : Word) :
    exec .ret { s with pc := p, stack := s.stack.set s.sp.val v h, sp := ⟨s.sp.val + 1, by omega⟩ } =
      .next { s with pc := v, stack := s.stack.set s.sp.val v h } := by
  rw [exec_ret_of_pos _ (Nat.succ_pos s.sp.val)]
  simp [State.setPc]

end Sys2Proof.Machine

namespace Sys2Proof.Proofs

open Sys2Proof.Machine

/-- Settles O28: the `RET` undoes the push of the `CALL`, whose slot is none of the older ones. -/
theorem returnResumesAfterCall : Obligations.ReturnResumesAfterCall := by
  intro nnn s p hsp
  have hfree := State.sp_lt_of_ne hsp
  refine ⟨_, _, exec_call_of_lt nnn s hfree, exec_ret_after_push s hfree s.pc p, rfl, fun k hk hold => ?_⟩
  exact Vector.getElem_set_ne hfree hk (Nat.ne_of_gt hold)

/-- Settles O23: `nnn` keeps its value in 16 bits. -/
theorem jumpSetsPc : Obligations.JumpSetsPc :=
  fun nnn _ => ⟨_, rfl, toNat_zextAddr nnn, rfl⟩

/-- Settles O24: the largest sum is 0x10FE, well inside 16 bits. -/
theorem jumpV0AddsWithoutMask : Obligations.JumpV0AddsWithoutMask :=
  fun nnn s => ⟨_, rfl, toNat_jumpOffset (s.reg 0) nnn, rfl⟩

/-- Settles O25: the push writes the slot at the old `sp` and no other. -/
theorem callPushesReturnAddress : Obligations.CallPushesReturnAddress := by
  intro nnn s hsp
  refine ⟨_, exec_call_of_lt nnn s (State.sp_lt_of_ne hsp), toNat_zextAddr nnn, rfl, fun k hk => ?slot, rfl⟩
  case slot => simp only [State.stack_setPc, Vector.getElem_set, eq_comm (a := k)]

/-- Settles O26: a live entry is below the old `sp`. -/
theorem returnPopsNewestAddress : Obligations.ReturnPopsNewestAddress := by
  intro s hsp
  have hlive : 0 < s.sp.val := Nat.pos_of_ne_zero hsp
  exact ⟨_, exec_ret_of_pos s hlive, Nat.sub_add_cancel hlive, fun _ => rfl, rfl⟩

/-- Settles O29: both are skips, which differ in the test only. -/
theorem skipsOnImmediate : Obligations.SkipsOnImmediate := fun x nn s =>
  ⟨⟨_, rfl, s.skipIf_frame _, s.toNat_pc_skipIf_beq (s.reg x) nn⟩,
    ⟨_, rfl, s.skipIf_frame _, s.toNat_pc_skipIf_bne (s.reg x) nn⟩⟩

/-- Settles O30: the two tests of O29, on two registers. -/
theorem skipsOnRegisters : Obligations.SkipsOnRegisters := fun x y s =>
  ⟨⟨_, rfl, s.skipIf_frame _, s.toNat_pc_skipIf_beq (s.reg x) (s.reg y)⟩,
    ⟨_, rfl, s.skipIf_frame _, s.toNat_pc_skipIf_bne (s.reg x) (s.reg y)⟩⟩

end Sys2Proof.Proofs
end

section
/-! PROOFS. Loads, arithmetic, logic, shifts and the draw (spec/42_alu.md R100 to R112): each result and each flag as a
number, and what a result and flag write leaves behind. -/

namespace Sys2Proof.Machine

/-! ### The results as numbers (R100, R109, R111) -/

theorem toNat_byteSum (a b : Byte) : (byteSum a b).toNat = (a.toNat + b.toNat) % 256 :=
  BitVec.toNat_ofNat _ 8

/-- The signed difference is reduced modulo 256, so adding 256 first changes nothing. -/
theorem toNat_byteDifference (a b : Byte) : (byteDifference a b).toNat = (a.toNat + 256 - b.toNat) % 256 := by
  have hb := b.isLt
  rw [byteDifference, BitVec.toNat_ofInt]
  omega

theorem toNat_shiftedRight (a : Byte) : (shiftedRight a).toNat = a.toNat / 2 := by
  rw [shiftedRight, BitVec.toNat_ushiftRight, Nat.shiftRight_eq_div_pow, Nat.pow_one]

theorem toNat_shiftedLeft (a : Byte) : (shiftedLeft a).toNat = a.toNat * 2 % 256 := by
  rw [shiftedLeft, BitVec.toNat_shiftLeft, Nat.shiftLeft_eq, Nat.pow_one]

/-! ### The flags as numbers (R107 to R111) -/

theorem toNat_flagByte (f : Bool) : (flagByte f).toNat = f.toNat := by
  cases f <;> rfl

theorem toNat_flagByte_decide (P : Prop) [Decidable P] : (flagByte (decide P)).toNat = if P then 1 else 0 := by
  rw [toNat_flagByte, Bool.toNat, Bool.cond_decide]

/-- `SHR` shifts out the remainder of the division by 2. -/
theorem toNat_flagByte_shiftOutRight (a : Byte) : (flagByte (shiftOutRight a)).toNat = a.toNat % 2 := by
  rw [toNat_flagByte, shiftOutRight, BitVec.getLsbD, Nat.toNat_testBit, Nat.pow_zero, Nat.div_one]

/-- `SHL` shifts out the top bit, which is the whole quotient by 128. -/
theorem toNat_flagByte_shiftOutLeft (a : Byte) : (flagByte (shiftOutLeft a)).toNat = a.toNat / 128 := by
  have ha := a.isLt
  rw [toNat_flagByte, shiftOutLeft, BitVec.getLsbD, Nat.toNat_testBit]
  omega

/-! ### A result, then its flag (R86, R87) -/

/-- What an instruction that ends in `setRegFlag` leaves behind: the flag in `VF`, the result in `Vx` unless that is
`VF`, and nothing else changed. The five flag-writing ALU instructions differ in the result `m` and the flag `n` only. -/
theorem exec_setRegFlag_spec {i : Instr} {s : State} {x : Reg} {b : Byte} {f : Bool} {n m : Nat}
    (h : exec i s = .next (s.setRegFlag x b f)) (hflag : (flagByte f).toNat = n) (hres : b.toNat = m) :
    ∃ t, exec i s = .next t ∧ t = { s with V := t.V } ∧ (t.reg 15).toNat = n ∧
      (x ≠ 15 → (t.reg x).toNat = m) ∧ ∀ r, r ≠ x → r ≠ 15 → t.reg r = s.reg r := by
  refine ⟨_, h, s.setRegFlag_frame x b f, ?flag, fun hx => ?result, fun r hr hf => s.reg_setRegFlag_ne hr hf b f⟩
  case flag => rw [State.reg_setRegFlag_flag, hflag]
  case result => rw [State.reg_setRegFlag_result s hx, hres]

end Sys2Proof.Machine

namespace Sys2Proof.Proofs

open Sys2Proof.Machine

/-- Settles O31: each is one register write. -/
theorem loadsOfRegister : Obligations.LoadsOfRegister := fun x y nn s =>
  ⟨⟨_, rfl, s.setReg_frame x nn, s.reg_setReg_self x nn, fun _ hr => s.reg_setReg_ne hr nn⟩,
    ⟨_, rfl, s.setReg_frame x (s.reg y), s.reg_setReg_self x (s.reg y), fun _ hr => s.reg_setReg_ne hr (s.reg y)⟩⟩

/-- Settles O32: one register write, of the sum modulo 256. -/
theorem addImmediateWrapsWithoutFlag : Obligations.AddImmediateWrapsWithoutFlag := by
  intro x nn s
  refine ⟨_, rfl, s.setReg_frame x _, ?sum, fun _ hr => s.reg_setReg_ne hr _⟩
  case sum => rw [State.reg_setReg_self, toNat_byteSum]

/-- Settles O33: one register write each, read back bit by bit. -/
theorem bitwiseWithoutFlag : Obligations.BitwiseWithoutFlag := by
  intro x y s
  refine ⟨⟨_, rfl, s.setReg_frame x _, fun _ hr => s.reg_setReg_ne hr _, fun b => ?or⟩,
    ⟨_, rfl, s.setReg_frame x _, fun _ hr => s.reg_setReg_ne hr _, fun b => ?and⟩,
    ⟨_, rfl, s.setReg_frame x _, fun _ hr => s.reg_setReg_ne hr _, fun b => ?xor⟩⟩
  case or => rw [State.reg_setReg_self, BitVec.getLsbD_or]
  case and => rw [State.reg_setReg_self, BitVec.getLsbD_and]
  case xor => rw [State.reg_setReg_self, BitVec.getLsbD_xor]

/-- Settles O34: the carry is the test of the exact sum against 255. -/
theorem addSetsCarry : Obligations.AddSetsCarry := fun x y s =>
  exec_setRegFlag_spec rfl (toNat_flagByte_decide _) (toNat_byteSum (s.reg x) (s.reg y))

/-- Settles O35: the flag is the comparison of the operands. -/
theorem subSetsNoBorrow : Obligations.SubSetsNoBorrow := fun x y s =>
  exec_setRegFlag_spec rfl (toNat_flagByte_decide _) (toNat_byteDifference (s.reg x) (s.reg y))

/-- Settles O36: O35 with the operands exchanged and the same destination. -/
theorem subnSetsNoBorrow : Obligations.SubnSetsNoBorrow := fun x y s =>
  exec_setRegFlag_spec rfl (toNat_flagByte_decide _) (toNat_byteDifference (s.reg y) (s.reg x))

/-- Settles O37: quotient and remainder by 2. -/
theorem shrShiftsOutBitZero : Obligations.ShrShiftsOutBitZero := fun x _ s =>
  exec_setRegFlag_spec rfl (toNat_flagByte_shiftOutRight (s.reg x)) (toNat_shiftedRight (s.reg x))

/-- Settles O38: the double modulo 256, and the quotient by 128. -/
theorem shlShiftsOutBitSeven : Obligations.ShlShiftsOutBitSeven := fun x _ s =>
  exec_setRegFlag_spec rfl (toNat_flagByte_shiftOutLeft (s.reg x)) (toNat_shiftedLeft (s.reg x))

/-- Settles O39: the draw moves only the counter, and the masked byte is one register write after it. -/
theorem randomMasksFreeDraw : Obligations.RandomMasksFreeDraw := by
  intro x nn s
  refine ⟨_, rfl, s.draw.2.setReg_frame x _, fun b => ?masked, fun r hr => ?others⟩
  case masked => rw [State.reg_setReg_self, State.draw_fst, BitVec.getLsbD_and]
  case others => rw [State.reg_setReg_ne _ hr, State.reg_draw]

end Sys2Proof.Proofs
end

section
/-! PROOFS. Index register and memory (spec/43_index_memory.md R121 to R126): the values written to `I`, the digits of
`LD B,Vx`, and the three block transfers when their range lies in memory (R44). -/

namespace Sys2Proof.Machine

/-! ### What `I` is set to (R122, R123) -/

theorem toNat_indexSum (i : Word) (v : Byte) : (indexSum i v).toNat = (i.toNat + v.toNat) % 65536 :=
  BitVec.toNat_ofNat _ 16

theorem toNat_glyphAddress (v : Byte) : (glyphAddress v).toNat = v.toNat * 5 % 80 :=
  Nat.mod_eq_of_lt (by omega)

/-- 80 is 5 times 16, so only the low nibble of `Vx` selects a glyph. -/
theorem toNat_glyphAddress_eq_mul (v : Byte) : (glyphAddress v).toNat = 5 * (v.toNat % 16) := by
  rw [toNat_glyphAddress, Nat.mul_comm]
  exact Nat.mul_mod_mul_left 5 v.toNat 16

/-! ### The bytes stored (R124, R125) -/

/-- A decimal digit fits in a byte. -/
theorem toNat_byte_of_digit {d : Nat} (h : d < 10) : (BitVec.ofNat 8 d).toNat = d :=
  Nat.mod_eq_of_lt (by omega)

theorem State.getElem_regsUpTo_toNat (s : State) {x r : Reg} (h : r.toNat < (s.regsUpTo x).length) :
    (s.regsUpTo x)[r.toNat] = s.reg r := by
  rw [State.getElem_regsUpTo, BitVec.ofNat_toNat, BitVec.setWidth_eq]

/-! ### The instructions with their range in memory (R44) -/

theorem State.accessing_of_le {s : State} {n : Nat} (h : s.I.toNat + n ≤ 4096) (i : Instr) (done : State) :
    s.accessing n i done = done :=
  if_pos ((accessOk_iff s.I.toNat n).2 (.inr h))

theorem exec_ldB_of_le (x : Reg) {s : State} (h : s.I.toNat + 2 ≤ 0xFFF) :
    exec (.ldB x) s = .next (s.writeBytes s.I.toNat (bcdDigits (s.reg x))) :=
  congrArg Host.Outcome.next (State.accessing_of_le (Nat.succ_le_succ h) _ _)

theorem exec_storeRegs_of_le {x : Reg} {s : State} (h : s.I.toNat + x.toNat ≤ 0xFFF) :
    exec (.storeRegs x) s = .next (s.writeBytes s.I.toNat (s.regsUpTo x)) :=
  congrArg Host.Outcome.next (State.accessing_of_le (Nat.succ_le_succ h) _ _)

theorem exec_loadRegs_of_le {x : Reg} {s : State} (h : s.I.toNat + x.toNat ≤ 0xFFF) :
    exec (.loadRegs x) s = .next (s.loadRegsFrom s.I.toNat x) :=
  congrArg Host.Outcome.next (State.accessing_of_le (Nat.succ_le_succ h) _ _)

end Sys2Proof.Machine

namespace Sys2Proof.Proofs

open Sys2Proof.Machine

/-- Settles O43: one block write of three bytes, and each is below 10, so no digit is cut. -/
theorem bcdWritesThreeDigits : Obligations.BcdWritesThreeDigits := by
  intro x s hmem hin
  have hfit : s.I.toNat + (bcdDigits (s.reg x)).length ≤ 4096 := Nat.succ_le_succ hin
  have hdigit (k d : Nat) (hk : k < 3) (hd : d < 10) (he : (bcdDigits (s.reg x))[k]'hk = BitVec.ofNat 8 d) :
      ((s.writeBytes s.I.toNat (bcdDigits (s.reg x))).readByte (s.I.toNat + k)).toNat = d := by
    have hbyte := (Memory.read_writeList_inside _ hmem hfit k hk).trans he
    rw [State.readByte_writeBytes, hbyte, toNat_byte_of_digit hd]
  have hhundreds : (s.reg x).toNat / 100 < 10 := by have := (s.reg x).isLt; omega
  exact ⟨_, exec_ldB_of_le x hin, rfl, hdigit 0 _ (by decide) hhundreds rfl,
    hdigit 1 _ (by decide) (Nat.mod_lt _ (by decide)) rfl, hdigit 2 _ (by decide) (Nat.mod_lt _ (by decide)) rfl,
    fun _ ha => Memory.read_writeList_outside _ hmem hfit ha⟩

/-- Settles O44: one block write of the registers up to `x`. -/
theorem storeBlockWritesRegisters : Obligations.StoreBlockWritesRegisters := by
  intro x s hmem hin
  have hlen : (s.regsUpTo x).length = x.toNat + 1 := s.length_regsUpTo x
  have hfit : s.I.toNat + (s.regsUpTo x).length ≤ 4096 := by omega
  refine ⟨_, exec_storeRegs_of_le hin, rfl, fun r hr => ?stored, fun a ha => ?others⟩
  case stored =>
    have hr' : r.toNat < (s.regsUpTo x).length := by omega
    exact (Memory.read_writeList_inside _ hmem hfit _ hr').trans (s.getElem_regsUpTo_toNat hr')
  case others => exact Memory.read_writeList_outside _ hmem hfit (by omega)

/-- Settles O45: what a block load leaves in a register depends on whether its number is at most `x`. -/
theorem loadBlockReadsRegisters : Obligations.LoadBlockReadsRegisters := by
  intro x s hin
  refine ⟨_, exec_loadRegs_of_le hin, s.loadRegsFrom_frame _ x, fun r hr => ?loaded, fun r hr => ?higher⟩
  case loaded => rw [State.reg_loadRegsFrom, if_pos hr]
  case higher => rw [State.reg_loadRegsFrom, if_neg (Nat.not_le.2 hr)]

/-- Settles O40: `nnn` keeps its value in 16 bits. -/
theorem loadIndex : Obligations.LoadIndex :=
  fun nnn _ => ⟨_, rfl, rfl, toNat_zextAddr nnn⟩

/-- Settles O41: the sum is reduced to 16 bits and compared with nothing (decision D7). -/
theorem addToIndexWrapsAt16Bits : Obligations.AddToIndexWrapsAt16Bits :=
  fun x s => ⟨_, rfl, rfl, toNat_indexSum s.I (s.reg x)⟩

/-- Settles O42: both forms of the glyph's address. -/
theorem glyphAddressOfDigit : Obligations.GlyphAddressOfDigit :=
  fun x s => ⟨_, rfl, rfl, toNat_glyphAddress (s.reg x), toNat_glyphAddress_eq_mul (s.reg x)⟩

end Sys2Proof.Proofs
end

section
/-! PROOFS. Graphics (spec/44_graphics.md R131 to R133): a sprite as the list of the pixels its set bits land on, no
pixel twice, so that drawing it is toggling each pixel of a set once. -/

namespace Sys2Proof.Machine

/-! ### The pixels a sprite lands on (R132) -/

/-- Where the set bits of sprite row `r` land, left to right. -/
def rowPixels (vx vy : Byte) (r : Nat) (row : Byte) : List Nat :=
  ((List.range 8).filter (spriteBit row)).map (pixelIndex vx vy r)

/-- Where the set bits of the `n` sprite rows from address `a` on land, in the order `DRW` visits them. -/
def spritePixels (m : Memory) (a n : Nat) (vx vy : Byte) : List Nat :=
  (List.range n).flatMap fun r => rowPixels vx vy r (m.read (a + r))

/-- The pixels that `DRW Vx,Vy,n` visits from state `s`. -/
def State.hitPixels (s : State) (x y : Reg) (n : Nibble) : List Nat :=
  spritePixels s.memory s.I.toNat n.toNat (s.reg x) (s.reg y)

theorem Canvas.drawRow_eq_foldl_flip (c : Canvas) (vx vy : Byte) (r : Nat) (row : Byte) :
    c.drawRow vx vy r row = (rowPixels vx vy r row).foldl Canvas.flip c := by
  rw [rowPixels, List.foldl_map, List.foldl_filter, Canvas.drawRow]

theorem Canvas.drawSprite_eq_foldl_flip (c : Canvas) (m : Memory) (a n : Nat) (vx vy : Byte) :
    c.drawSprite m a n vx vy = (spritePixels m a n vx vy).foldl Canvas.flip c := by
  simp only [spritePixels, List.foldl_flatMap, ← Canvas.drawRow_eq_foldl_flip, Canvas.drawSprite]

theorem mem_rowPixels {vx vy : Byte} {r : Nat} {row : Byte} {k : Nat} :
    k ∈ rowPixels vx vy r row ↔ ∃ b < 8, spriteBit row b = true ∧ pixelIndex vx vy r b = k := by
  simp only [rowPixels, List.mem_map, List.mem_filter, List.mem_range, and_assoc]

theorem State.mem_hitPixels {s : State} {x y : Reg} {n : Nibble} {k : Nat} :
    k ∈ s.hitPixels x y n ↔ SpriteHits s x y n k := by
  simp only [State.hitPixels, spritePixels, List.mem_flatMap, List.mem_range, mem_rowPixels]
  rfl

theorem SpriteHits.lt {s : State} {x y : Reg} {n : Nibble} {k : Nat} (h : SpriteHits s x y n k) : k < 2048 := by
  obtain ⟨r, -, b, -, -, rfl⟩ := h
  exact pixelIndex_lt (s.reg x) (s.reg y) r b

/-! ### No pixel is visited twice: 8 columns are distinct modulo 64, and 15 rows modulo 32 (R132) -/

theorem pixelIndex_inj {vx vy : Byte} {r r' b b' : Nat} (hr : r < 32) (hr' : r' < 32) (hb : b < 8) (hb' : b' < 8)
    (h : pixelIndex vx vy r b = pixelIndex vx vy r' b') : r = r' ∧ b = b' := by
  unfold pixelIndex at h
  omega

theorem nodup_rowPixels (vx vy : Byte) {r : Nat} (hr : r < 32) (row : Byte) : (rowPixels vx vy r row).Nodup := by
  refine (List.nodup_range.filter _).map_on fun b hb b' hb' h => ?_
  have hlt {c : Nat} (hc : c ∈ (List.range 8).filter (spriteBit row)) : c < 8 :=
    List.mem_range.1 (List.mem_filter.1 hc).1
  exact (pixelIndex_inj hr hr (hlt hb) (hlt hb') h).2

theorem nodup_spritePixels (m : Memory) (a : Nat) {n : Nat} (hn : n ≤ 32) (vx vy : Byte) :
    (spritePixels m a n vx vy).Nodup := by
  have hlt {r : Nat} (hr : r ∈ List.range n) : r < 32 := Nat.lt_of_lt_of_le (List.mem_range.1 hr) hn
  refine List.nodup_flatMap.2 ⟨fun r hr => nodup_rowPixels vx vy (hlt hr) _, ?disjoint⟩
  refine List.nodup_range.pairwise_of_forall_ne fun r hr r' hr' hne k hk hk' => hne ?_
  obtain ⟨b, hb, -, rfl⟩ := mem_rowPixels.1 hk
  obtain ⟨b', hb', -, he⟩ := mem_rowPixels.1 hk'
  exact (pixelIndex_inj (hlt hr) (hlt hr') hb hb' he.symm).1

theorem State.nodup_hitPixels (s : State) (x y : Reg) (n : Nibble) : (s.hitPixels x y n).Nodup :=
  nodup_spritePixels _ _ (Nat.le_of_lt (Nat.lt_trans n.isLt (by decide))) _ _

/-! ### Toggling the pixels of a list without repetition -/

theorem Canvas.get_foldl_flip {ks : List Nat} (hnodup : ks.Nodup) (hks : ∀ k ∈ ks, k < 2048) (c : Canvas) {j : Nat}
    (hj : j < 2048) : (ks.foldl Canvas.flip c).fb.get j = (c.fb.get j ^^ decide (j ∈ ks)) := by
  induction ks generalizing c with
  | nil => simp
  | cons k ks ih =>
    obtain ⟨hk, hks⟩ := List.forall_mem_cons.1 hks
    obtain ⟨hfresh, hnodup⟩ := List.nodup_cons.1 hnodup
    rw [List.foldl_cons, ih hnodup hks, Canvas.flip, Framebuffer.get_toggle _ _ _ hk hj]
    by_cases h : j = k
    · subst h; simp [hfresh]
    · simp [h]

/-- Every pixel of the list is met as it stood at first, so the collision is a test of the first framebuffer. -/
theorem Canvas.collision_foldl_flip {ks : List Nat} (hnodup : ks.Nodup) (hks : ∀ k ∈ ks, k < 2048) (c : Canvas) :
    (ks.foldl Canvas.flip c).collision = true ↔ c.collision = true ∨ ∃ k ∈ ks, c.fb.get k = true := by
  induction ks generalizing c with
  | nil => simp
  | cons k ks ih =>
    obtain ⟨hk, hks⟩ := List.forall_mem_cons.1 hks
    obtain ⟨hfresh, hnodup⟩ := List.nodup_cons.1 hnodup
    have hsame : ∀ j ∈ ks, (c.fb.toggle k).get j = c.fb.get j := fun j hj => by
      have hne : j ≠ k := fun e => hfresh (e ▸ hj)
      simp [Framebuffer.get_toggle _ _ _ hk (hks j hj), hne]
    have hrest : (∃ j ∈ ks, (c.flip k).fb.get j = true) ↔ ∃ j ∈ ks, c.fb.get j = true :=
      exists_congr fun j => and_congr_right fun hj => by rw [← hsame j hj, Canvas.flip]
    rw [List.foldl_cons, ih hnodup hks, hrest, List.exists_mem_cons_iff, ← or_assoc, Canvas.flip, Bool.or_eq_true]

/-! ### What `DRW` draws (R132) -/

theorem State.drawn_eq_foldl_flip (s : State) (x y : Reg) (n : Nibble) :
    s.drawn x y n = (s.hitPixels x y n).foldl Canvas.flip { fb := s.fb, collision := false } :=
  Canvas.drawSprite_eq_foldl_flip _ _ _ _ _ _

theorem State.get_fb_drawn (s : State) (x y : Reg) (n : Nibble) {k : Nat} (hk : k < 2048) :
    (s.drawn x y n).fb.get k = (s.pixel k ^^ decide (k ∈ s.hitPixels x y n)) := by
  rw [State.drawn_eq_foldl_flip]
  exact Canvas.get_foldl_flip (s.nodup_hitPixels x y n) (fun _ h => (State.mem_hitPixels.1 h).lt) _ hk

theorem State.get_fb_drawn_ne_iff (s : State) (x y : Reg) (n : Nibble) {k : Nat} (hk : k < 2048) :
    (s.drawn x y n).fb.get k ≠ s.pixel k ↔ SpriteHits s x y n k := by
  rw [State.get_fb_drawn s x y n hk, ← State.mem_hitPixels]
  cases s.pixel k <;> simp

theorem State.collision_drawn_iff (s : State) (x y : Reg) (n : Nibble) :
    (s.drawn x y n).collision = true ↔ ∃ k < 2048, SpriteHits s x y n k ∧ s.pixel k = true := by
  rw [State.drawn_eq_foldl_flip, Canvas.collision_foldl_flip (s.nodup_hitPixels x y n)
    (fun _ h => (State.mem_hitPixels.1 h).lt)]
  simp only [Bool.false_eq_true, false_or, State.mem_hitPixels]
  exact exists_congr fun k => ⟨fun ⟨hhit, hlit⟩ => ⟨hhit.lt, hhit, hlit⟩, fun ⟨_, h⟩ => h⟩

/-! ### Drawing again on what the first draw left (R133): the same pixels are hit -/

@[simp] theorem State.pixel_setFb (s : State) (fb : Framebuffer) (k : Nat) : (s.setFb fb).pixel k = fb.get k := rfl

@[simp] theorem State.hitPixels_setFb (s : State) (fb : Framebuffer) (x y : Reg) (n : Nibble) :
    (s.setFb fb).hitPixels x y n = s.hitPixels x y n := rfl

@[simp] theorem spriteHits_setFb {s : State} {fb : Framebuffer} {x y : Reg} {n : Nibble} {k : Nat} :
    SpriteHits (s.setFb fb) x y n k ↔ SpriteHits s x y n k := Iff.rfl

theorem State.fb_drawn_drawn (s : State) (x y : Reg) (n : Nibble) :
    ((s.setFb (s.drawn x y n).fb).drawn x y n).fb = s.fb := by
  refine Framebuffer.ext_get _ _ fun k hk => ?_
  rw [State.get_fb_drawn _ x y n hk, State.pixel_setFb, State.hitPixels_setFb, State.get_fb_drawn s x y n hk,
    Bool.xor_assoc, Bool.xor_self, Bool.xor_false, State.pixel]

/-- The second draw turns off exactly what the first turned on. -/
theorem State.collision_drawn_drawn_iff (s : State) (x y : Reg) (n : Nibble) :
    ((s.setFb (s.drawn x y n).fb).drawn x y n).collision = true ↔
      ∃ k < 2048, SpriteHits s x y n k ∧ s.pixel k = false := by
  simp only [State.collision_drawn_iff, State.pixel_setFb, spriteHits_setFb]
  refine exists_congr fun k => and_congr_right fun hk => and_congr_right fun hhit => ?_
  have htoggled : (s.drawn x y n).fb.get k ≠ s.pixel k := (s.get_fb_drawn_ne_iff x y n hk).2 hhit
  rw [Bool.eq_not_of_ne htoggled, Bool.not_eq_true']

/-! ### The instruction and its flag -/

/-- `DRW` when its sprite is empty or lies in memory (R44, decision D17). -/
theorem exec_drw_of_le (x y : Reg) {n : Nibble} {s : State} (h : n.toNat = 0 ∨ s.I.toNat + n.toNat - 1 ≤ 0xFFF) :
    exec (.drw x y n) s = .next ((s.setFb (s.drawn x y n).fb).setFlag (s.drawn x y n).collision) :=
  congrArg Host.Outcome.next (if_pos ((accessOk_iff s.I.toNat n.toNat).2 (by omega)))

theorem flagByte_eq_one_iff {f : Bool} : flagByte f = 1 ↔ f = true := by
  cases f <;> simp [flagByte]

@[simp] theorem State.reg_setFlag_flag (s : State) (f : Bool) : (s.setFlag f).reg 15 = flagByte f :=
  s.reg_setReg_self 15 (flagByte f)

end Sys2Proof.Machine

namespace Sys2Proof.Proofs

open Sys2Proof.Machine

/-- Settles O48: each pixel hit is toggled once, and the collision is a test of the pixels as they stood. -/
theorem drawTogglesWhereSpriteHits : Obligations.DrawTogglesWhereSpriteHits := by
  intro x y n s hin
  refine ⟨_, exec_drw_of_le x y hin, rfl, fun k hk => s.get_fb_drawn_ne_iff x y n hk, ?bit, ?collision,
    fun r hr => State.reg_setReg_ne _ hr _⟩
  case bit => rw [State.reg_setFlag_flag]; exact flagByte_cases _
  case collision => rw [State.reg_setFlag_flag, flagByte_eq_one_iff, State.collision_drawn_iff]

/-- Settles O49: with the registers re-established, the second draw starts from the first state with only its
framebuffer replaced. -/
theorem drawTwiceRestores : Obligations.DrawTwiceRestores := by
  intro x y n s hin
  have hsecond := exec_drw_of_le x y (s := s.setFb (s.drawn x y n).fb) hin
  refine ⟨_, _, exec_drw_of_le x y hin, hsecond, s.fb_drawn_drawn x y n, ?second⟩
  rw [State.reg_setFlag_flag, flagByte_eq_one_iff, State.collision_drawn_drawn_iff]

/-- Settles O47: the framebuffer written is blank. -/
theorem clearScreen : Obligations.ClearScreen := fun _ =>
  ⟨_, rfl, rfl, fun k _ => Framebuffer.get_blank k⟩

end Sys2Proof.Proofs
end

section
/-! PROOFS. Timers and keypad (spec/45_timer_keypad.md R141 to R147): the key a register names, the search for the lowest
key that is down, and the two ways `LD Vx,K` can go. -/

namespace Sys2Proof.Machine

/-! ### Keys (R141, R144; decision D14) -/

theorem keyIndex_eq {v : Byte} {k : BitVec 4} (h : k.toNat = v.toNat % 16) : keyIndex v = k := by
  rw [keyIndex, ← h, BitVec.ofNat_toNat, BitVec.setWidth_eq]

/-- The converse of `State.lowestKey_some`. -/
theorem State.lowestKey_eq_some {s : State} {k : BitVec 4} (hdown : s.keyDown k = true)
    (hup : ∀ j : BitVec 4, j.toNat < k.toNat → s.keyDown j = false) : s.lowestKey = some k.toNat := by
  refine List.find?_range_eq_some.2 ⟨?down, List.mem_range.2 k.isLt, fun j hj => ?up⟩
  case down => rwa [BitVec.ofNat_toNat, BitVec.setWidth_eq]
  case up =>
    have hlt : (BitVec.ofNat 4 j).toNat < k.toNat := by
      rw [BitVec.toNat_ofNat]
      exact (Nat.mod_le j _).trans_lt hj
    rw [hup _ hlt, Bool.not_false]

/-- The converse of `State.lowestKey_none`. -/
theorem State.lowestKey_eq_none {s : State} (h : ∀ k : BitVec 4, s.keyDown k = false) : s.lowestKey = none :=
  List.find?_eq_none.2 fun _ _ => Bool.eq_false_iff.1 (h _)

/-! ### `LD Vx,K` with a key down and with none (R144, R147) -/

theorem exec_ldVxK_of_lowestKey (x : Reg) {s : State} {k : Nat} (h : s.lowestKey = some k) :
    exec (.ldVxK x) s = .next (s.setReg x (BitVec.ofNat 8 k)) := by
  rw [exec, execLdVxK, h]

theorem exec_ldVxK_of_no_key (x : Reg) {s : State} (h : ∀ k : BitVec 4, s.keyDown k = false) :
    exec (.ldVxK x) s = .next (s.setPc (s.pc - 2)) := by
  rw [exec, execLdVxK, State.lowestKey_eq_none h]

/-- A key number fits in a byte. -/
theorem toNat_byte_of_key (k : BitVec 4) : (BitVec.ofNat 8 k.toNat).toNat = k.toNat :=
  Nat.mod_eq_of_lt (k.isLt.trans (by decide))

/-- Going back by 2 undoes the advance of the fetch (R82). -/
theorem State.setPc_advance_rewind (s : State) : (s.setPc (s.pc + 2)).setPc (s.pc + 2 - 2) = s := by
  rw [BitVec.add_sub_cancel]
  rfl

/-! ### Skips on a key (R141, R142) -/

/-- The branches of `State.toNat_pc_skipIf`, exchanged. -/
theorem State.toNat_pc_skipIf_not (s : State) (c : Bool) :
    (s.skipIf (!c)).pc.toNat = if c then s.pc.toNat else (s.pc.toNat + 2) % 65536 := by
  simp only [State.toNat_pc_skipIf, Bool.not_eq_true', ← Bool.not_eq_true, ite_not]

end Sys2Proof.Machine

namespace Sys2Proof.Proofs

open Sys2Proof.Machine

/-- Settles O52: the search finds the key all lower ones of which are up, or nothing. -/
theorem keyWaitTakesLowestKey : Obligations.KeyWaitTakesLowestKey := by
  refine fun x s => ⟨fun k hdown hup => ?taken, fun hnone => ?rewound⟩
  case taken =>
    refine ⟨_, exec_ldVxK_of_lowestKey x (State.lowestKey_eq_some hdown hup), s.setReg_frame x _, ?value,
      fun r hr => s.reg_setReg_ne hr _⟩
    case value => rw [State.reg_setReg_self, toNat_byte_of_key]
  case rewound => exact ⟨_, exec_ldVxK_of_no_key x hnone, rfl, BitVec.sub_add_cancel s.pc 2⟩

/-- Settles O50: one test in the two skips, negated in the second. -/
theorem skipsOnKey : Obligations.SkipsOnKey := by
  intro x s k hk
  rw [← keyIndex_eq hk]
  exact ⟨⟨_, rfl, s.skipIf_frame _, s.toNat_pc_skipIf _⟩, ⟨_, rfl, s.skipIf_frame _, s.toNat_pc_skipIf_not _⟩⟩

/-- Settles O51: one register write, and two timer writes. -/
theorem timerMoves : Obligations.TimerMoves := fun x s =>
  ⟨⟨_, rfl, s.setReg_frame x s.DT, s.reg_setReg_self x s.DT, fun _ hr => s.reg_setReg_ne hr s.DT⟩, rfl, rfl⟩

/-- Settles O53: the fetch advances `pc` by 2, and with no key down the handler goes back by 2. -/
theorem keyWaitTickChangesNothing : Obligations.KeyWaitTickChangesNothing := by
  intro x s hrun hop hnone
  calc step s
    _ = exec (.ldVxK x) (s.setPc (s.pc + 2)) := step_of_decodeWord hrun hop (decodeWord_encode (.ldVxK x))
    _ = .next ((s.setPc (s.pc + 2)).setPc (s.pc + 2 - 2)) := exec_ldVxK_of_no_key x hnone
    _ = .next s := congrArg Host.Outcome.next s.setPc_advance_rewind

end Sys2Proof.Proofs
end

section
/-! PROOFS. The host interface (spec/47_host_interface.md R150 to R157): what each host operation beside `Tick` does to
the state and answers, and that none but `Reset` clears the halt. -/

namespace Sys2Proof.Machine

/-! ### `Load` (R152, R164) -/

/-- The room above 0x200 is 3584 bytes. -/
theorem romFits_iff (rom : List Byte) : romFits rom = true ↔ rom.length ≤ 3584 :=
  decide_eq_true_iff.trans (Nat.add_le_add_iff_right (k := 3584) (n := Config.progBase))

theorem romFits_eq_false {rom : List Byte} (h : 3584 < rom.length) : romFits rom = false :=
  Bool.eq_false_iff.2 (mt (romFits_iff rom).1 h.not_ge)

theorem State.load_of_romFits {rom : List Byte} (s : State) (h : romFits rom = true) :
    s.load rom = s.writeBytes 0x200 rom :=
  if_pos h

theorem State.load_of_romFits_eq_false {rom : List Byte} (s : State) (h : romFits rom = false) :
    s.load rom = s.raise .loadTooLarge 0x200 0 :=
  if_neg (Bool.eq_false_iff.1 h)

theorem fst_performLoad (s : State) (rom : List Byte) : (performLoad s rom).1 = s.load rom := by
  rw [performLoad]

theorem performLoad_of_le {rom : List Byte} (s : State) (h : rom.length ≤ 3584) :
    performLoad s rom = (s.writeBytes 0x200 rom, .ok) := by
  have hfits : romFits rom = true := (romFits_iff rom).2 h
  rw [performLoad, s.load_of_romFits hfits, if_pos hfits]

theorem performLoad_of_lt {rom : List Byte} (s : State) (h : 3584 < rom.length) :
    performLoad s rom =
      (s.raise .loadTooLarge 0x200 0, .err { kind := .loadTooLarge, addr := 0x200, opcode := 0 }) := by
  have hfits : romFits rom = false := romFits_eq_false h
  rw [performLoad, s.load_of_romFits_eq_false hfits, hfits]
  rfl

/-! ### `Snapshot` (R155) -/

@[simp] theorem State.length_snapshot (s : State) : s.snapshot.length = 2048 := by
  rw [State.snapshot, List.length_map, List.length_range]

theorem State.getElem_snapshot (s : State) (k : Nat) (h : k < s.snapshot.length) : s.snapshot[k] = s.pixel k := by
  simp only [State.snapshot, List.getElem_map, List.getElem_range]

/-! ### `TickTimers` (R156) -/

/-- Subtraction of naturals stops at 0, as the timer does (decision D12; log 9). -/
theorem toNat_timerDown (t : Byte) : (timerDown t).toNat = t.toNat - 1 := by
  unfold timerDown
  split
  · exact Nat.mod_eq_of_lt (by omega)
  · omega

/-! ### The halt latch through the operations (R157, R167) -/

/-- A ROM that fits leaves the latch alone, a longer one sets it. -/
theorem State.halted_load {s : State} (h : s.halted = true) (rom : List Byte) : (s.load rom).halted = true := by
  cases hfits : romFits rom with
  | true => rw [s.load_of_romFits hfits]; exact h
  | false => rw [s.load_of_romFits_eq_false hfits]; rfl

theorem performTick_of_halted {s : State} (h : s.halted = true) : performTick s = (s, HostResult.ofFault s.fault) :=
  performTick_of_step (step_of_halted h)

theorem halted_perform_of_ne_reset (font : Config.Font) {op : HostOp} {s : State} (hop : op ≠ .reset)
    (h : s.halted = true) : (perform font op s).1.halted = true := by
  cases op with
  | load rom => rw [perform, fst_performLoad]; exact State.halted_load h rom
  | tick => rw [perform, performTick_of_halted h]; exact h
  | reset => exact absurd rfl hop
  | keyEvent index pressed => exact h
  | snapshot => exact h
  | tickTimers => exact h

theorem halted_perform_reset (font : Config.Font) (s : State) : (perform font .reset s).1.halted = false := rfl

end Sys2Proof.Machine

namespace Sys2Proof.Proofs

open Sys2Proof.Machine

/-- Settles O19: `Reset` answers a state with no record, and every other operation keeps the record or writes one. -/
theorem onlyResetClearsHalt : Obligations.OnlyResetClearsHalt := by
  intro font op s hs
  constructor
  · intro hrun
    by_contra hop
    exact Bool.eq_false_iff.1 hrun (halted_perform_of_ne_reset font hop hs)
  · rintro rfl
    exact halted_perform_reset font s

/-- Settles O54: a `Load` that fits is one block write at 0x200. -/
theorem loadCopiesRom : Obligations.LoadCopiesRom := by
  intro font rom s hmem hlen
  have hroom : 0x200 + rom.length ≤ 4096 := by omega
  exact ⟨s.writeBytes 0x200 rom, performLoad_of_le s hlen, rfl, Memory.read_writeList_inside rom hmem hroom,
    fun _ => Memory.read_writeList_outside rom hmem hroom⟩

/-- Settles O2: the state `Reset` leaves is written as power-on with the draw counter kept. -/
theorem resetOperationFromAnyState : Obligations.ResetOperationFromAnyState :=
  fun _ _ => rfl

/-- Settles O55: the fault is recorded in place of the copy (R164). -/
theorem loadTooLargeHalts : Obligations.LoadTooLargeHalts :=
  fun _ _ => performLoad_of_lt

/-- Settles O56: one key write. -/
theorem keyEventSetsOneKey : Obligations.KeyEventSetsOneKey := fun _ index pressed s =>
  ⟨s.setKey index pressed, rfl, rfl, s.keyDown_setKey_self index pressed, fun _ hk => s.keyDown_setKey_ne hk pressed⟩

/-- Settles O57: the list is the map of `fb` over the pixel numbers in order. -/
theorem snapshotReturnsPixels : Obligations.SnapshotReturnsPixels := fun _ s =>
  ⟨s.snapshot, rfl, s.length_snapshot, s.getElem_snapshot⟩

/-- Settles O58: two timer writes. -/
theorem tickTimersStopAtZero : Obligations.TickTimersStopAtZero := fun _ s =>
  ⟨s.tickTimers, rfl, rfl, toNat_timerDown s.DT, toNat_timerDown s.ST⟩

end Sys2Proof.Proofs
end

section
/-! PROOFS. Exceptions, reset and hazards (spec/60_exceptions.md R160 to R174, spec/70_reset_and_hazards.md R186, R189):
the latch after a `Tick`, `ST` carried through a `Tick` unread, `DT` and the invariant across host operations, and the
jump to itself. -/

namespace Sys2Proof.Machine

/-! ### The record of R160 in each case of a `Tick` (R168) -/

theorem State.fault_of_not_halted {s : State} (h : s.halted = false) : s.fault = none :=
  Option.isNone_iff_eq_none.1 (Option.isSome_eq_false_iff.1 h)

theorem tickFault_of_halted {s : State} (h : s.halted = true) : tickFault s = s.fault := by
  obtain ⟨r, hr⟩ := Option.isSome_iff_exists.1 h
  rw [tickFault, hr]

theorem tickFault_of_fetchWord_eq_none {s : State} (hrun : s.halted = false) (h : s.fetchWord = none) :
    tickFault s = some { kind := .memoryOutOfBounds, addr := s.pc, opcode := 0 } := by
  have hpc : s.pc.toNat + 1 > 0xFFF := by
    by_contra hle
    cases h.symm.trans (State.fetchWord_of_le (Nat.le_of_not_lt hle))
  rw [tickFault, State.fault_of_not_halted hrun]
  exact if_pos hpc

/-- Once a word is fetched the decoder and then the handler decide. -/
theorem tickFault_of_fetchWord {s : State} {op : Word} (hrun : s.halted = false) (h : s.fetchWord = some op) :
    tickFault s = (decodeWord op).elim (some { kind := .unimplementedOpcode, addr := s.pc, opcode := op })
      fun i => (handlerFault i s).map fun k => { kind := k, addr := s.pc, opcode := op } := by
  have hpc : s.pc.toNat + 1 ≤ 0xFFF := Nat.succ_le_succ (State.pc_le_of_fetchWord h)
  obtain rfl := Option.some.inj ((State.fetchWord_of_le hpc).symm.trans h)
  rw [tickFault, State.fault_of_not_halted hrun]
  refine (if_neg (Nat.not_lt.2 hpc)).trans ?_
  simp only [bigEndian]
  cases decodeWord (s.readByte s.pc.toNat ++ s.readByte (s.pc.toNat + 1)) <;> rfl

/-- No fault condition reads `pc`. -/
theorem handlerFault_setPc (i : Instr) (s : State) (a : Word) : handlerFault i (s.setPc a) = handlerFault i s := by
  cases i <;> rfl

/-- A handler run from the advanced `pc` of a running machine: a fault leaves `s` with the record latched, and without
one the latch stays empty. -/
theorem exec_advanced_fault {s : State} (i : Instr) (hrun : s.halted = false) :
    ∃ t, exec i (s.setPc (s.pc + 2)) = .next t ∧
      t.fault = (handlerFault i s).map (fun k => { kind := k, addr := s.pc, opcode := encode i }) ∧
      (t.fault ≠ none → t = { s with fault := t.fault }) := by
  cases hf : handlerFault i s with
  | none =>
    obtain ⟨t, ht, hw⟩ := exec_writesOnly ((handlerFault_setPc i s (s.pc + 2)).trans hf)
    have hclear : t.fault = none := hw.fault.trans (State.fault_of_not_halted hrun)
    exact ⟨t, ht, hclear, absurd hclear⟩
  | some k =>
    refine ⟨_, exec_of_handlerFault ((handlerFault_setPc i s _).trans hf), ?_⟩
    rw [State.raiseExec_advanced]
    exact ⟨rfl, fun _ => rfl⟩

/-! ### A `Tick` that reaches no handler (R81, R83) -/

theorem step_of_fetchWord_eq_none {s : State} (hrun : s.halted = false) (hop : s.fetchWord = none) :
    step s = .next (s.raise .memoryOutOfBounds s.pc 0) := by
  rw [step, tick, hrun, hop]
  rfl

theorem step_of_illegal {s : State} {op : Word} (hrun : s.halted = false) (hop : s.fetchWord = some op)
    (hd : decodeWord op = none) : step s = .next (s.raise .unimplementedOpcode s.pc op) := by
  rw [step_of_fetchWord hrun hop, tickWord, hd]

/-! ### `ST` passes through every instruction but `LD ST,Vx` (R174) -/

/-- No fault condition reads `ST`. -/
theorem handlerFault_setST (i : Instr) (s : State) (v : Byte) : handlerFault i (s.setST v) = handlerFault i s := by
  cases i <;> rfl

theorem State.skipIf_setST (s : State) (v : Byte) (c : Bool) : (s.setST v).skipIf c = (s.skipIf c).setST v := by
  cases c <;> rfl

/-- The bytes a block load reads are not in `ST`, and each of its register writes leaves `ST` alone. -/
theorem State.loadRegsFrom_setST (s : State) (v : Byte) (a : Nat) (x : Reg) :
    (s.setST v).loadRegsFrom a x = (s.loadRegsFrom a x).setST v :=
  List.foldl_hom (State.setST · v) fun _ _ => rfl

/-- `LD ST,Vx` apart, an instruction's fault and its effect are worked out from other fields. -/
theorem exec_setST {i : Instr} (hi : ∀ x, i ≠ .ldStVx x) (s : State) (v : Byte) :
    ∃ t, exec i s = .next t ∧ exec i (s.setST v) = .next (t.setST v) := by
  cases hf : handlerFault i s with
  | some k => exact ⟨_, exec_of_handlerFault hf, exec_of_handlerFault ((handlerFault_setST i s v).trans hf)⟩
  | none =>
    have hf' := (handlerFault_setST i s v).trans hf
    cases i with
    | ret =>
      have hsp := handlerFault_ret_eq_none.1 hf
      exact ⟨_, exec_ret_of_pos s hsp, exec_ret_of_pos (s.setST v) hsp⟩
    | call nnn =>
      have hsp := handlerFault_call_eq_none.1 hf
      exact ⟨_, exec_call_of_lt nnn s hsp, exec_call_of_lt nnn (s.setST v) hsp⟩
    | seByte | sneByte | seReg | sneReg | skp | sknp => exact ⟨_, rfl, congrArg _ (s.skipIf_setST v _)⟩
    | drw => exact ⟨_, by rw [exec_drw, hf], by rw [exec_drw, hf']; rfl⟩
    | ldB => exact ⟨_, by rw [exec_ldB, hf], by rw [exec_ldB, hf']; rfl⟩
    | storeRegs => exact ⟨_, by rw [exec_storeRegs, hf], by rw [exec_storeRegs, hf']; rfl⟩
    | loadRegs x =>
      exact ⟨_, by rw [exec_loadRegs, hf],
        by rw [exec_loadRegs, hf']; exact congrArg _ (s.loadRegsFrom_setST v _ x)⟩
    | ldVxK x =>
      cases hk : s.lowestKey with
      | some k => exact ⟨_, exec_ldVxK_of_lowestKey x hk, exec_ldVxK_of_lowestKey x (s := s.setST v) hk⟩
      | none =>
        have hup := State.lowestKey_none hk
        exact ⟨_, exec_ldVxK_of_no_key x hup, exec_ldVxK_of_no_key x (s := s.setST v) hup⟩
    | ldStVx x => exact absurd rfl (hi x)
    | _ => exact ⟨_, rfl, rfl⟩

/-- `LD ST,Vx` writes over the `ST` it was given. -/
theorem exec_ldStVx_setST (x : Reg) (s : State) (v : Byte) : exec (.ldStVx x) (s.setST v) = exec (.ldStVx x) s := rfl

/-- A `Tick` leaves `ST` as it was given it, or sets it to what does not depend on it. -/
theorem step_setST {s t : State} (h : step s = .next t) (v : Byte) :
    step (s.setST v) = .next (t.setST v) ∨ step (s.setST v) = .next t := by
  obtain ⟨hhalt, he⟩ | ⟨hrun, hop, he⟩ | ⟨op, hrun, hop, hd, he⟩ | ⟨op, i, hrun, hop, hd, he⟩ := step_cases s
  · obtain rfl := Host.Outcome.next.inj (he.symm.trans h)
    exact .inl (step_of_halted (s := s.setST v) hhalt)
  · obtain rfl := Host.Outcome.next.inj (he.symm.trans h)
    exact .inl (step_of_fetchWord_eq_none (s := s.setST v) hrun hop)
  · obtain rfl := Host.Outcome.next.inj (he.symm.trans h)
    exact .inl (step_of_illegal (s := s.setST v) hrun hop hd)
  · have he' : step (s.setST v) = exec i ((s.setPc (s.pc + 2)).setST v) :=
      step_of_decodeWord (s := s.setST v) hrun hop hd
    rw [he']
    by_cases hi : ∃ x, i = .ldStVx x
    · obtain ⟨x, rfl⟩ := hi
      exact .inr ((exec_ldStVx_setST x _ v).trans (he.symm.trans h))
    · obtain ⟨u, hu, hu'⟩ := exec_setST (fun x hx => hi ⟨x, hx⟩) (s.setPc (s.pc + 2)) v
      obtain rfl := Host.Outcome.next.inj (hu.symm.trans (he.symm.trans h))
      exact .inl hu'

/-! ### The host operations one after another (R150, R189) -/

@[simp] theorem performAll_nil (font : Config.Font) (s : State) : performAll font [] s = s := rfl

@[simp] theorem performAll_cons (font : Config.Font) (op : HostOp) (ops : List HostOp) (s : State) :
    performAll font (op :: ops) s = performAll font ops (perform font op s).1 := rfl

theorem State.DT_load (s : State) (rom : List Byte) : (s.load rom).DT = s.DT := by
  cases hfits : romFits rom with
  | true => rw [s.load_of_romFits hfits]; rfl
  | false => rw [s.load_of_romFits_eq_false hfits]; rfl

/-- Of the operations beside `Tick` and `Reset`, only `TickTimers` writes `DT`. -/
theorem toNat_DT_perform (font : Config.Font) {op : HostOp} (htick : op ≠ .tick) (hreset : op ≠ .reset) (s : State) :
    (perform font op s).1.DT.toNat = s.DT.toNat - if op = .tickTimers then 1 else 0 := by
  cases op with
  | load rom => rw [perform, fst_performLoad, State.DT_load]; rfl
  | tick => exact absurd rfl htick
  | reset => exact absurd rfl hreset
  | keyEvent index pressed => rfl
  | snapshot => rfl
  | tickTimers => exact toNat_timerDown s.DT

/-! ### The invariant across the host operations (R189) -/

theorem State.Inv.writeBytes {s : State} (h : s.Inv) {a : Nat} {bs : List Byte} (hfit : a + bs.length ≤ 4096) :
    (s.writeBytes a bs).Inv := by
  obtain ⟨hmem, hpc, hstack, hfault⟩ := h
  exact ⟨Memory.wf_writeList bs hmem hfit, hpc, hstack, hfault⟩

/-- A `LoadTooLarge` is no fault of a `Tick`, so its record need not hold `pc`. -/
theorem State.Inv.raise_loadTooLarge {s : State} (h : s.Inv) (a op : Word) : (s.raise .loadTooLarge a op).Inv := by
  obtain ⟨hmem, hpc, hstack, -⟩ := h
  refine ⟨hmem, hpc, hstack, fun r hr hkind => ?_⟩
  obtain rfl := Option.some.inj hr
  exact absurd rfl hkind

theorem State.Inv.load {s : State} (h : s.Inv) (rom : List Byte) : (s.load rom).Inv := by
  cases hfits : romFits rom with
  | true =>
    have hlen := (romFits_iff rom).1 hfits
    rw [s.load_of_romFits hfits]
    exact h.writeBytes (by omega)
  | false =>
    rw [s.load_of_romFits_eq_false hfits]
    exact h.raise_loadTooLarge _ _

theorem State.inv_resetMachine (s : State) (font : Config.Font) : (s.resetMachine font).Inv :=
  State.inv_of_reset_fields (Memory.wf_powerOn font) rfl rfl rfl

theorem step_next (s : State) : ∃ t, step s = .next t := by
  obtain ⟨-, he⟩ | ⟨-, -, he⟩ | ⟨_, -, -, -, he⟩ | ⟨_, i, -, -, -, he⟩ := step_cases s
  · exact ⟨_, he⟩
  · exact ⟨_, he⟩
  · exact ⟨_, he⟩
  · obtain ⟨t, ht⟩ := exec_next i (s.setPc (s.pc + 2))
    exact ⟨t, he.trans ht⟩

theorem State.Inv.performTick {s : State} (h : s.Inv) : (performTick s).1.Inv := by
  obtain ⟨t, ht⟩ := step_next s
  rw [performTick_of_step ht]
  exact Proofs.stepKeepsInvariant s t h ht

theorem State.Inv.perform {s : State} (h : s.Inv) (font : Config.Font) (op : HostOp) : (perform font op s).1.Inv := by
  cases op with
  | load rom => rw [Machine.perform, fst_performLoad]; exact h.load rom
  | tick => exact h.performTick
  | reset => exact s.inv_resetMachine font
  | keyEvent index pressed => exact h
  | snapshot => exact h
  | tickTimers => exact h

/-! ### The jump to itself (R186, decision D23) -/

theorem encode_jp (nnn : Addr12) : encode (.jp nnn) = 0x1000 ||| zextAddr nnn := by
  rw [encode, BitVec.append_def]
  rfl

theorem exists_zextAddr_eq {a : Word} (h : a.toNat ≤ 0xFFF) : ∃ nnn : Addr12, zextAddr nnn = a :=
  ⟨a.setWidth 12, BitVec.eq_of_toNat_eq (by rw [toNat_zextAddr, BitVec.toNat_setWidth]; omega)⟩

end Sys2Proof.Machine

namespace Sys2Proof.Proofs

open Sys2Proof.Machine

/-- Settles O5: induction over the operations, and each of them keeps the invariant. -/
theorem hostRunsKeepInvariant : Obligations.HostRunsKeepInvariant := by
  intro font ops
  induction ops with
  | nil => exact fun s h => h
  | cons op ops ih => exact fun s h => ih _ (h.perform font op)

/-- Settles O17: in each case of the `Tick` the latch is the record of that case; a handler's record holds the fetched
word because encoding undoes decoding. -/
theorem tickFaultsExactlyAsRuled : Obligations.TickFaultsExactlyAsRuled := by
  intro s
  obtain ⟨hhalt, he⟩ | ⟨hrun, hop, he⟩ | ⟨op, hrun, hop, hd, he⟩ | ⟨op, i, hrun, hop, hd, he⟩ := step_cases s
  · exact ⟨s, he, (tickFault_of_halted hhalt).symm, fun _ => rfl⟩
  · exact ⟨_, he, (tickFault_of_fetchWord_eq_none hrun hop).symm, fun _ => rfl⟩
  · refine ⟨_, he, ?_, fun _ => rfl⟩
    rw [tickFault_of_fetchWord hrun hop, hd]
    rfl
  · obtain ⟨t, ht, hlatch, hframe⟩ := exec_advanced_fault i hrun
    refine ⟨t, he.trans ht, ?_, hframe⟩
    rw [tickFault_of_fetchWord hrun hop, hd, hlatch, encode_of_decodeWord hd]
    rfl

/-- Settles O22: a `Tick` commutes with setting `ST`, or it is one that sets `ST` itself. -/
theorem soundTimerIsNeverRead : Obligations.SoundTimerIsNeverRead := by
  intro s t v h
  obtain ht' | ht' := step_setST h v
  · exact ⟨t.setST v, ht', rfl⟩
  · exact ⟨t, ht', rfl⟩

/-- Settles O59: induction over the operations; a subtraction that stops at 0 can be made in parts. -/
theorem delayTimerCountsCalls : Obligations.DelayTimerCountsCalls := by
  intro font ops
  induction ops with
  | nil => exact fun s _ => rfl
  | cons op ops ih =>
    intro s hops
    obtain ⟨⟨htick, hreset⟩, hrest⟩ := List.forall_mem_cons.1 hops
    rw [performAll_cons, ih _ hrest, toNat_DT_perform font htick hreset, List.count_cons, Nat.sub_sub, Nat.add_comm]
    simp only [beq_iff_eq]

/-- Settles O27: the two faults of the stack are among those a handler rolls back from. -/
theorem stackFaultsChangeOnlyTheLatch : Obligations.StackFaultsChangeOnlyTheLatch := by
  refine ⟨fun nnn s hfull => ?call, fun s hempty => ?ret⟩
  case call =>
    have hf : handlerFault (.call nnn) s = some .stackOverflow := if_pos hfull
    exact exec_of_handlerFault hf
  case ret =>
    have hf : handlerFault .ret s = some .stackUnderflow := if_pos hempty
    exact exec_of_handlerFault hf

/-- Settles O60: the word at `pc` is that of `JP pc`, which sets `pc` back from where the fetch advanced it. -/
theorem normalEndIsFixedPoint : Obligations.NormalEndIsFixedPoint := by
  rintro s ⟨hrun, hpc, hop⟩
  obtain ⟨nnn, hnnn⟩ := exists_zextAddr_eq (hpc.trans (by decide))
  rw [← hnnn, ← encode_jp] at hop
  calc step s
    _ = exec (.jp nnn) (s.setPc (s.pc + 2)) := step_of_decodeWord hrun hop (decodeWord_encode (.jp nnn))
    _ = .next (s.setPc (zextAddr nnn)) := rfl
    _ = .next s := by rw [hnnn]; rfl

end Sys2Proof.Proofs
end
